-- ==== Sys2Proof/Word.lean ====
section
/-! DEFINITION. The word types of the KQ-96: bytes, line patterns, 24-bit sample values, 16-bit gains and cycle numbers. -/

namespace Sys2Proof

/-- One byte of a frame, carried by one data symbol (R186). -/
abbrev Byte := BitVec 8

/-- A 10-bit pattern of the line code as it stands on the line, its first bit the most significant (R186). -/
abbrev Pattern := BitVec 10

/-- A sample value: 24 bits in two's complement, −8,388,608 .. +8,388,607 (R1). Its number is `BitVec.toInt`. -/
abbrev Sample := BitVec 24

/-- The wire form g of a gain, 16 bits in two's complement, standing for g / 16384 (00_scope.md, "Numbers and values"). -/
abbrev Gain := BitVec 16

/-- A cycle number, 0..65535, wrapping (R2). -/
abbrev CycleNo := BitVec 16

/-- A fault log sequence number, 0..65535, wrapping (R144). -/
abbrev Seq := BitVec 16

end Sys2Proof
end

