-- ==== Sys2Proof/Config.lean ====
section
/-! DEFINITION. The capacities of the part (00_scope.md, "Capacities at a glance"). The spec leaves no value of the part to the
implementation and no result of an operation open, so there is no free value here. -/

namespace Sys2Proof.Config

/-- Places in the Command FIFO (R168). -/
abbrev fifoPlaces : Nat := 4
/-- Ordinary places in the Forward Queue, beside the reserved FILL place (R189). -/
abbrev forwardPlaces : Nat := 4
/-- Places in the Return Queue (R190). -/
abbrev returnPlaces : Nat := 4
/-- Reply places in the Outbound Queue (R191). -/
abbrev replyPlaces : Nat := 8
/-- Records the fault log holds (R144). -/
abbrev logPlaces : Nat := 64
/-- The value at which a saturating counter stays (R21, R178). -/
abbrev counterMax : Nat := 65535
/-- Bytes in the largest frame (R196). -/
abbrev frameMax : Nat := 513

end Sys2Proof.Config
end

