-- ==== Sys2Proof/Syntax.lean ====
section
/-! DEFINITION. The steps of the part as syntax: one constructor of `Instr` per row of spec/opcode_table.json. -/

namespace Sys2Proof

/-- The two link ports: U faces the concentrators, D the controller (00_scope.md, "Block diagram"). -/
inductive Port where
  | u
  | d
  deriving DecidableEq, Repr

/-- What takes an UP receiver DOWN (R187): a receive line with no transition for 1 µs, or the code violations among the patterns that
its line brings. -/
inductive DownCause where
  | lossOfSignal
  | violations (line : List Pattern)
  deriving DecidableEq, Repr

/-- The patterns that a port's receiver takes since the port's last row (log 7). -/
structure Taken where
  port : Port
  line : List Pattern
  deriving DecidableEq, Repr

/-- The end of a transmission: the port whose transmitter has sent END, and what takes that port DOWN before its next choice, where
something does (R193, R194, R195). -/
structure TransmitEnd where
  port : Port
  down : Option DownCause
  deriving DecidableEq, Repr

/-- An event that can be taken between two samples of one segment: a command, a TRIP_N sample, the completion of the bank copy,
what happens on port D and at the transmitters, and the frames of port U that do not reach the Cycle Tracker (R23, R65, R82, R95, R171).
The events that reach the tracker are not among them: those are taken before the whole segment or after it (R41). -/
inductive Between where
  /-- The Command Executor takes the command at the head of the FIFO (R171). -/
  | executorTakes
  | tripNFall
  | tripNRise
  | bankCopyComplete
  | transmitEndU
  /-- Port D's transmitter has sent END; `down`, where it is given, is taken before the next choice (R194). -/
  | transmitEndD (down : Option DownCause)
  /-- Port D's receiver takes patterns from its line (R187, R188). -/
  | portDLine (line : List Pattern)
  /-- Port D's receive line shows no transition for 1 µs (R187). -/
  | portDSignalLoss
  /-- Port U's receiver takes patterns from its line that bring nothing to the tracker: a frame that is no SEG, a SEG that finds no place, or
  a frame that fails (R23, R188, R189). -/
  | portULine (line : List Pattern)
  deriving DecidableEq, Repr

/-- The steps of the part, each whole (spec/opcode_table.json, spec/95_what_each_step_holds.md). A row of a management command is
the taking of that command from the head of the Command FIFO; its operands are the argument bytes that stand there (R171, R175;
log 3). -/
inductive Instr where
  /-- POWER_ON_RESET: the ADDR5..ADDR0 straps and the TRIP_N level (true: high) at the end of the reset (R108, R169). -/
  | powerOnReset (straps : BitVec 6) (tripHigh : Bool)
  /-- FRAME_RECEIVED (R188): the port, the patterns that its receiver takes since its last row, the END or the second START that ends the
  frame (log 7), and, for a segment whose samples are worked, the events taken before each sample's work and, last, before its close
  (R65; log 6). -/
  | frameReceived (p : Port) (line : List Pattern) (last : Pattern) (between : List (List Between))
  /-- CYCLE_TIMER_EXPIRY (R35, R36). -/
  | cycleTimerExpiry
  /-- BANK_COPY_COMPLETE (R134). -/
  | bankCopyComplete
  /-- TRIP_N_FALL (R108). -/
  | tripNFall
  /-- TRIP_N_RISE (R108). -/
  | tripNRise
  /-- PORT_UP (R187): the port and the patterns that its receiver takes since its last row. -/
  | portUp (p : Port) (line : List Pattern)
  /-- PORT_D_DOWN (R187, R194): what takes the receiver DOWN. -/
  | portDDown (cause : DownCause)
  /-- PORT_U_DOWN (R187, R195): what takes the receiver DOWN. -/
  | portUDown (cause : DownCause)
  /-- FRAME_TRANSMIT_END (R193). -/
  | frameTransmitEnd (e : TransmitEnd)
  /-- IDENTIFY, code 01h (R176). -/
  | identify
  /-- STATUS, code 02h (R177). -/
  | status
  /-- READ_CHANNEL, code 10h (R18). -/
  | readChannel
  /-- WRITE_CHANNEL, code 11h (R16). -/
  | writeChannel
  /-- READ_GROUP, code 12h (R19). -/
  | readGroup
  /-- WRITE_GROUP, code 13h (R16). -/
  | writeGroup
  /-- READ_CYCLE, code 14h (R19). -/
  | readCycle
  /-- WRITE_CYCLE, code 15h (R16). -/
  | writeCycle
  /-- COMMIT, code 20h (R125). -/
  | commit
  /-- CANCEL, code 21h (R130). -/
  | cancel
  /-- BYPASS, code 22h (R138). -/
  | bypass
  /-- CHANNEL_STATE, code 30h (R83). -/
  | channelState
  /-- GROUP_STATE, code 31h (R121). -/
  | groupState
  /-- TRIP, code 32h (R110). -/
  | trip
  /-- REARM, code 33h (R114, R115). -/
  | rearm
  /-- LOG_READ, code 40h (R147). -/
  | logRead
  /-- LOG_ACK, code 41h (R148). -/
  | logAck
  /-- LOG_CLEAR, code 42h (R149). -/
  | logClear
  /-- TEST, code 50h (R158). -/
  | test
  /-- TEST_RESULT, code 51h (R167). -/
  | testResult
  /-- RESET_RUNTIME, code 60h with scope 0 (R182). -/
  | resetRuntime
  /-- RESET_LOG, code 60h with scope 1 (R183). -/
  | resetLog
  /-- RESET_DEVICE, code 60h with scope 2 (R184). -/
  | resetDevice
  /-- UNKNOWN_COMMAND: a code that names no command (R175). -/
  | unknownCommand
  /-- FRAME_OVERLONG (R188): a frame on the port reaches its 514th byte without an END, which is the last pattern taken. -/
  | frameOverlong (t : Taken)
  deriving DecidableEq, Repr

end Sys2Proof
end

