-- ==== Sys2Proof/Decode.lean ====
section
/-! DEFINITION. Words to steps: no row of spec/opcode_table.json has bits (every row's "fields" is empty), so no word spells a row. -/

namespace Sys2Proof

/-- The step that a word spells by the table's bits: none, for no row gives bits (log 18). The bytes of CMD frames are read by
`Machine.sortCommand`. -/
def decodeTableWord (_nbits _w : Nat) : Option Instr := none

end Sys2Proof
end

