-- ==== Sys2Proof/Machine/Records.lean ====
section
/-! DEFINITION. The records the part keeps and the frames it handles, as plain data: table entries, runtime records, log records,
replies and frames. -/

namespace Sys2Proof.Machine

/-- A table channel, 0..95 (00_scope.md, "Channels, groups and addresses"). -/
abbrev Chan := Fin 96

/-- A safe-state group, 0..7. -/
abbrev Grp := Fin 8

/-! ### Tables (01_channels_groups_and_the_two_table_banks.md) -/

/-- The mode field of a channel entry (R5). -/
inductive ChannelMode where
  | off
  | monitor
  | guard
  deriving DecidableEq, Repr

/-- What a FAULTED GUARD channel emits (R5, R90). -/
inductive Reaction where
  | hold
  | safe
  | mark
  deriving DecidableEq, Repr

/-- A set of condition classes (R5). -/
structure ClassSet where
  high : Bool
  low : Bool
  rate : Bool
  qual : Bool
  stale : Bool
  warn : Bool
  deriving DecidableEq, Repr

/-- A set of record kinds (R12's alert_kinds). -/
structure KindSet where
  fault : Bool
  recover : Bool
  warn : Bool
  trip : Bool
  rearm : Bool
  link : Bool
  seq : Bool
  dup : Bool
  commit : Bool
  mode : Bool
  deriving DecidableEq, Repr

/-- A channel entry: the twenty fields of R5, in field-number order. -/
structure ChannelEntry where
  mode : ChannelMode
  period : Nat
  phase : Nat
  gain : Gain
  offset : Sample
  lowLimit : Sample
  highLimit : Sample
  warnLow : Sample
  warnHigh : Sample
  rateLimit : Nat
  classes : ClassSet
  satIsFault : Bool
  window : Nat
  threshold : Nat
  recovery : Nat
  reaction : Reaction
  holdSuspect : Bool
  trip : Bool
  group : Option Grp
  safeValue : Sample
  deriving DecidableEq, Repr

/-- A group entry: the four fields of R9. -/
structure GroupEntry where
  autoRearm : Bool
  holdoff : Nat
  pinBound : Bool
  linkBound : Bool
  deriving DecidableEq, Repr

/-- The cycle parameters record: the three fields of R12. -/
structure CycleParams where
  cycleTimeout : Nat
  lossLimit : Nat
  alertKinds : KindSet
  deriving DecidableEq, Repr

/-- One table bank (R3). -/
structure Bank where
  channels : Vector ChannelEntry 96
  groups : Vector GroupEntry 8
  cycle : CycleParams
  deriving DecidableEq, Repr

inductive BankLetter where
  | a
  | b
  deriving DecidableEq, Repr

/-- The role a read names (R18). -/
inductive BankRole where
  | active
  | staging
  deriving DecidableEq, Repr

/-- The 105 edited marks of the staging role (R14). -/
structure Marks where
  channels : Vector Bool 96
  groups : Vector Bool 8
  cycle : Bool
  deriving DecidableEq, Repr

/-- The target of a commit (R123). -/
inductive CommitTarget where
  | next
  | atCycle (n : CycleNo)
  deriving DecidableEq, Repr

inductive DeviceMode where
  | bypass
  | active
  deriving DecidableEq, Repr

/-- The Table Store (R3, R14, R123): `commit` is none for NONE; `modeChange` and `copyInFlight` are true for PENDING and IN_FLIGHT. -/
structure TableStore where
  bankA : Bank
  bankB : Bank
  active : BankLetter
  marks : Marks
  commit : Option CommitTarget
  modeChange : Bool
  copyInFlight : Bool
  deviceMode : DeviceMode
  deriving DecidableEq, Repr

/-! ### The receivers (11.1, 11.2) -/

/-- What ended a frame: its END, or a second START that breaks it off (R188). -/
inductive FrameEnd where
  | endSymbol
  | secondStart
  deriving DecidableEq, Repr

/-- A frame as a receiver takes it, behind its START: its bytes so far, and whether it holds a code violation (R188). -/
structure Arriving where
  bytes : List Byte
  violated : Bool
  deriving DecidableEq, Repr

/-- What a receiver keeps of the symbols it has taken: while DOWN, how many IDLE its present run holds; while UP, for each of the last
63 symbols or as many as there are, newest first, whether it was a code violation; and the frame that is open (R187, R188). -/
structure Receiver where
  idleRun : Nat
  recent : List Bool
  frame : Option Arriving
  deriving DecidableEq, Repr

/-! ### The Cycle Tracker (02_the_cycle.md) -/

inductive TrackerState where
  | nosync
  | opened
  | closed
  deriving DecidableEq, Repr

/-- The Cycle Tracker (R21) but for unsync_count, which stands with the counters. `timer` is none while stopped, and while running
the value in µs it was started with (R35; log 2). -/
structure Tracker where
  state : TrackerState
  lastCycle : CycleNo
  lastIndex : Nat
  timer : Option Nat
  consecutiveLost : Nat
  lostTotal : Nat
  seen : Vector Bool 96
  deriving DecidableEq, Repr

/-- Why an SEQ record is submitted (R143). -/
inductive SeqDetail where
  | skip
  | late
  | segGap
  | segDup
  | incomplete
  deriving DecidableEq, Repr

/-! ### Samples and runtime records (03, 04) -/

/-- One entry of a SEG or FILL frame (R45, R196): channel, value, quality code as carried. -/
structure SampleEntry where
  channel : Byte
  value : Sample
  quality : Byte
  deriving DecidableEq, Repr

/-- A quality code as the Checker reads it (R52). -/
inductive Quality where
  | ok
  | sat
  | bad
  | subst
  deriving DecidableEq, Repr

inductive ChannelState where
  | idle
  | clean
  | suspect
  | faulted
  deriving DecidableEq, Repr

/-- A verdict of an evaluation (R63, R66). -/
inductive Verdict where
  | violating
  | clean
  deriving DecidableEq, Repr

/-- A channel runtime record (R66); `history` is newest first. -/
structure ChannelRecord where
  state : ChannelState
  history : List Verdict
  violations : Nat
  recovery : Nat
  lastGood : Option Sample
  rateBase : Option Sample
  inWarn : Bool
  faultClasses : Option ClassSet
  faultCycle : Option CycleNo
  deriving DecidableEq, Repr

/-- What the Checker hands on for a judged sample (R63): the channel and its cycle are known to the receiver. -/
structure CheckOutcome where
  classes : ClassSet
  received : Sample
  quality : Quality
  conditioned : Option Sample
  deriving DecidableEq, Repr

/-! ### Groups (06_groups_and_the_safe_state.md) -/

inductive GroupState where
  | armed
  | tripped
  deriving DecidableEq, Repr

inductive TripCause where
  | channel
  | pin
  | link
  | command
  deriving DecidableEq, Repr

/-- A group record (R102). -/
structure GroupRecord where
  state : GroupState
  cause : Option TripCause
  causeChannel : Option Chan
  tripCycle : Option CycleNo
  holdoffLeft : Nat
  deriving DecidableEq, Repr

/-- Why a TRIPPED group is not ready (R112). -/
inductive FailedCondition where
  | member (c : Chan)
  | pin
  | link
  | holdoff (left : Nat)
  deriving DecidableEq, Repr

/-- How a group was rearmed (R118). -/
inductive RearmHow where
  | auto
  | command
  deriving DecidableEq, Repr

/-! ### The fault log (08_the_fault_log_and_alerts.md) -/

/-- The outcome a MODE record reports (R143). -/
inductive ModeOutcome where
  | bypass
  | refused
  deriving DecidableEq, Repr

/-- The kind and the further fields of a record (R143). -/
inductive RecordBody where
  | fault (channel : Chan) (classes : ClassSet) (value : Option Sample) (group : Option Grp)
  | recover (channel : Chan)
  | warn (channel : Chan) (value : Sample)
  | trip (group : Grp) (cause : TripCause) (channel : Option Chan)
  | rearm (group : Grp) (how : RearmHow)
  | linkLost (consecutiveLost : Nat)
  | linkRestored
  | seq (detail : SeqDetail) (skip : Option Nat) (received : Option (CycleNo × Nat))
  | dup (channel : Chan)
  | commit (count : Nat) (groups : Vector Bool 8) (params : Bool)
  | mode (outcome : ModeOutcome)
  deriving DecidableEq, Repr

/-- A fault log record (R142). -/
structure LogRecord where
  sequence : Seq
  cycle : Option CycleNo
  body : RecordBody
  deriving DecidableEq, Repr

/-- The Fault Log but for its alert slot, which stands in the Outbound Queue (R141). -/
structure FaultLog where
  records : List LogRecord
  nextSequence : Seq
  lost : Nat
  deriving DecidableEq, Repr

/-- A WAITING alert slot (R152). -/
structure WaitingAlert where
  newest : Option Seq
  record : Option LogRecord
  deriving DecidableEq, Repr

/-! ### Check tests (09_check_tests.md) -/

inductive TestKind where
  | limit
  | rate
  | qualify
  | fill
  deriving DecidableEq, Repr

/-- A test's expectation, whose form gives its kind (R158). -/
inductive Expectation where
  | limit (high low : Bool)
  | rate (raised : Bool)
  | qualify (count : Nat)
  | fill (value : Sample)
  deriving DecidableEq, Repr

/-- A pending test (R157). -/
structure PendingTest where
  expectation : Expectation
  channel : Chan
  value : Sample
  deriving DecidableEq, Repr

inductive TestOutcome where
  | none
  | pass
  | fail
  | aborted
  deriving DecidableEq, Repr

/-- What a test observed (R157, R161 to R164). -/
inductive Observed where
  | classes (set : ClassSet)
  | count (n : Nat)
  | value (v : Sample) (quality : Quality)
  deriving DecidableEq, Repr

inductive TestDetail where
  | noBase
  | off
  | mode
  deriving DecidableEq, Repr

/-- The last result (R157). -/
structure TestResult where
  outcome : TestOutcome
  kind : Option TestKind
  channel : Option Chan
  observed : Option Observed
  detail : Option TestDetail
  cycle : Option CycleNo
  deriving DecidableEq, Repr

/-- The test record (R157). -/
structure TestRecord where
  pending : Option PendingTest
  last : TestResult
  deriving DecidableEq, Repr

/-! ### Commands and replies (10_management_commands.md) -/

/-- A command in the Command FIFO (R168, R196): whether its destination byte was 63, its tag, code and argument bytes. -/
structure Command where
  broadcast : Bool
  tag : Byte
  code : Byte
  args : List Byte
  deriving DecidableEq, Repr

/-- The status codes (R174). -/
inductive Status where
  | ok
  | busy
  | pending
  | badArg
  | invalid
  | late
  | notReady
  | tripped
  | noSync
  | mode
  | unknown
  deriving DecidableEq, Repr

/-- The checks of validation, in their order (R126). -/
inductive ValidationCheck where
  | order
  | window
  | phase
  | group
  deriving DecidableEq, Repr

/-- The scopes of RESET (R182). -/
inductive ResetScope where
  | runtime
  | log
  | device
  deriving DecidableEq, Repr

/-- What TRIP did to one group (R110). -/
inductive TripItem where
  | tripped
  | restarted
  deriving DecidableEq, Repr

/-- What REARM found or did for one group (R114). -/
inductive RearmItem where
  | alreadyArmed
  | rearmed
  | notReady (why : FailedCondition)
  deriving DecidableEq, Repr

/-- The readiness GROUP-STATE reports for a TRIPPED group (R121). -/
inductive Readiness where
  | ready
  | failed (why : FailedCondition)
  deriving DecidableEq, Repr

/-- The eight counters of R178. -/
structure Counters where
  uCheckErrors : Nat
  uFormatErrors : Nat
  dCheckErrors : Nat
  dFormatErrors : Nat
  unsyncCount : Nat
  forwardOverruns : Nat
  returnOverruns : Nat
  droppedCommands : Nat
  deriving DecidableEq, Repr

/-- The STATUS snapshot (R177). -/
structure StatusSnapshot where
  deviceMode : DeviceMode
  trackerState : TrackerState
  lastCycle : CycleNo
  consecutiveLost : Nat
  lostTotal : Nat
  commit : Option CommitTarget
  copyInFlight : Bool
  modeChange : Bool
  groups : Vector GroupState 8
  logCount : Nat
  lost : Nat
  test : Option (TestKind × Chan)
  counters : Counters
  deriving DecidableEq, Repr

/-- The result of a reply: the fields its owning rule gives, before R197 turns them into bytes. -/
inductive Result where
  /-- No result. -/
  | empty
  /-- IDENTIFY (R176). -/
  | identity (vendor part : BitVec 16) (revision : Nat) (node : BitVec 6)
  /-- STATUS (R177). -/
  | snapshot (s : StatusSnapshot)
  /-- READ-CHANNEL (R18); the mark is present for STAGING. -/
  | channelEntry (bank : BankLetter) (e : ChannelEntry) (mark : Option Bool)
  /-- READ-GROUP (R19). -/
  | groupEntry (bank : BankLetter) (e : GroupEntry) (mark : Option Bool)
  /-- READ-CYCLE (R19). -/
  | cycleParams (bank : BankLetter) (p : CycleParams) (mark : Option Bool)
  /-- BADARG of a write: the first refused item's field number (R16). -/
  | field (number : Nat)
  /-- PENDING: a commit with its target (R124). -/
  | pendingCommit (t : CommitTarget)
  /-- PENDING: a mode change (R124). -/
  | pendingMode
  /-- INVALID (R126). -/
  | invalid (c : Chan) (check : ValidationCheck)
  /-- LATE: last_cycle (R127). -/
  | late (lastCycle : CycleNo)
  /-- An accepted COMMIT: its target (R125). -/
  | target (t : CommitTarget)
  /-- CANCEL: the target of the commit that was pending (R130). -/
  | cancelled (t : Option CommitTarget)
  /-- BYPASS refused with TRIPPED: the tripped groups, ascending (R138). -/
  | trippedGroups (l : List Grp)
  /-- CHANNEL-STATE (R83). -/
  | channelRecord (r : ChannelRecord)
  /-- GROUP-STATE (R121). -/
  | groupRecord (r : GroupRecord) (readiness : Option Readiness)
  /-- TRIP: one item per group named, ascending (R110). -/
  | tripItems (l : List TripItem)
  /-- REARM of one group (R114); with NOTREADY the failed condition. -/
  | rearmItem (i : RearmItem)
  /-- REARM ALL: eight items, ascending (R115). -/
  | rearmItems (l : List RearmItem)
  /-- LOG-READ (R147). -/
  | logRecords (count lost : Nat) (records : List LogRecord)
  /-- LOG-ACK (R148). -/
  | logAcked (removed count : Nat)
  /-- LOG-CLEAR (R149). -/
  | logCleared (removed lost : Nat)
  /-- TEST refused with BUSY: the pending test's kind and channel (R158). -/
  | busyTest (kind : TestKind) (c : Chan)
  /-- TEST of an OFF channel: the channel number (R158). -/
  | offChannel (c : Chan)
  /-- TEST accepted, to run at the next close (R159). -/
  | testPending
  /-- TEST accepted and run at once (R159). -/
  | testRan
  /-- TEST-RESULT (R167). -/
  | testRecord (t : TestRecord)
  /-- RESET: its scope (R182). -/
  | scope (s : ResetScope)
  deriving DecidableEq, Repr

/-- A REPLY (R172). -/
structure Reply where
  source : BitVec 6
  tag : Byte
  code : Byte
  status : Status
  result : Result
  deriving DecidableEq, Repr

/-! ### Frames and queues (11_link_ports_and_frame_formats.md) -/

/-- A SEG frame (R196): `segByte` holds the last flag in bit 7 and the index in bits 3..0. -/
structure Segment where
  cycle : CycleNo
  segByte : Byte
  entries : List SampleEntry
  deriving DecidableEq, Repr

/-- An ALERT frame (R153). -/
structure Alert where
  source : BitVec 6
  newest : Option Seq
  logCount : Nat
  lost : Nat
  record : Option LogRecord
  deriving DecidableEq, Repr

/-- A frame awaiting port D or on its line: a SEG, a FILL of this part (R99), a REPLY or an ALERT of this part, or a frame passed on
byte for byte as received (R193; log 19). -/
inductive Frame where
  | seg (s : Segment)
  | fill (cycle : CycleNo) (entries : List SampleEntry)
  | reply (r : Reply)
  | alert (a : Alert)
  | passed (bytes : List Byte)
  deriving DecidableEq, Repr

/-- A frame in the Forward Queue (R189): whether it holds the reserved place, whether it is complete, whether it carries the mark of the
frame that ends a cycle (R34, R192), and whether it is the SEG that the tracker is taking, from its arrival to any close its last flag
causes (R41). -/
structure Queued where
  frame : Frame
  reserved : Bool
  complete : Bool
  ending : Bool
  underway : Bool
  deriving DecidableEq, Repr

/-- A frame on port D's transmit line (R193), with its ending mark (R192), and whether it is the SEG that the tracker is taking (R41). -/
structure OnLine where
  frame : Frame
  ending : Bool
  underway : Bool
  deriving DecidableEq, Repr

end Sys2Proof.Machine
end

