-- ==== Sys2Proof/Machine/Defaults.lean ====
section
/-! DEFINITION. The values the parts of the state take at power-on reset. -/

namespace Sys2Proof.Machine

/-- All six condition classes (R6). -/
def ClassSet.all : ClassSet := ⟨true, true, true, true, true, true⟩

/-- The empty set of classes. -/
def ClassSet.none : ClassSet := ⟨false, false, false, false, false, false⟩

/-- The default channel entry (R6). -/
def ChannelEntry.default : ChannelEntry where
  mode := .off
  period := 1
  phase := 0
  gain := 16384
  offset := 0
  lowLimit := BitVec.ofInt 24 (-8388608)
  highLimit := 8388607
  warnLow := BitVec.ofInt 24 (-8388608)
  warnHigh := 8388607
  rateLimit := 0
  classes := .all
  satIsFault := false
  window := 4
  threshold := 3
  recovery := 8
  reaction := .safe
  holdSuspect := false
  trip := false
  group := .none
  safeValue := 0

/-- The default group entry (R11). -/
def GroupEntry.default : GroupEntry where
  autoRearm := false
  holdoff := 4
  pinBound := true
  linkBound := true

/-- The default alert_kinds: FAULT, TRIP and LINK (R13). -/
def KindSet.default : KindSet where
  fault := true
  recover := false
  warn := false
  trip := true
  rearm := false
  link := true
  seq := false
  dup := false
  commit := false
  mode := false

/-- The default cycle parameters record (R13). -/
def CycleParams.default : CycleParams where
  cycleTimeout := 1000
  lossLimit := 3
  alertKinds := .default

/-- A bank with every entry at its default (R3). -/
def Bank.default : Bank where
  channels := Vector.replicate 96 .default
  groups := Vector.replicate 8 .default
  cycle := .default

/-- All 105 marks clear (R14). -/
def Marks.clear : Marks where
  channels := Vector.replicate 96 false
  groups := Vector.replicate 8 false
  cycle := false

/-- The Table Store after power-on and RESET DEVICE (R3, R14, R123). -/
def TableStore.powerOn : TableStore where
  bankA := .default
  bankB := .default
  active := .a
  marks := .clear
  commit := .none
  modeChange := false
  copyInFlight := false
  deviceMode := .bypass

/-- A receiver that has just gone DOWN or come UP: no run, no violation within reach, no open frame (R187). -/
def Receiver.quiet : Receiver where
  idleRun := 0
  recent := []
  frame := .none

/-- A map with no channel marked (R32, R49). -/
def clearMap : Vector Bool 96 := Vector.replicate 96 false

/-- The Cycle Tracker after power-on and RESET DEVICE (R22). -/
def Tracker.powerOn : Tracker where
  state := .nosync
  lastCycle := 0
  lastIndex := 0
  timer := .none
  consecutiveLost := 0
  lostTotal := 0
  seen := clearMap

/-- A runtime record at its reset values, with the state given (R68). -/
def ChannelRecord.fresh (state : ChannelState) : ChannelRecord where
  state := state
  history := []
  violations := 0
  recovery := 0
  lastGood := .none
  rateBase := .none
  inWarn := false
  faultClasses := .none
  faultCycle := .none

/-- An ARMED group record (R102). -/
def GroupRecord.armed : GroupRecord where
  state := .armed
  cause := .none
  causeChannel := .none
  tripCycle := .none
  holdoffLeft := 0

/-- The fault log after power-on and RESET DEVICE (R141). -/
def FaultLog.powerOn : FaultLog where
  records := []
  nextSequence := 0
  lost := 0

/-- The last result with outcome NONE, its other fields absent (R157). -/
def TestResult.nothing : TestResult where
  outcome := .none
  kind := .none
  channel := .none
  observed := .none
  detail := .none
  cycle := .none

/-- The test record after power-on and RESET DEVICE (R157). -/
def TestRecord.powerOn : TestRecord where
  pending := .none
  last := .nothing

/-- All eight counters at 0 (R178). -/
def Counters.zero : Counters := ⟨0, 0, 0, 0, 0, 0, 0, 0⟩

end Sys2Proof.Machine
end

