-- ==== Sys2Proof/Machine/LineCode.lean ====
section
/-! DEFINITION. The 8b/10b line code that R186 names: the patterns of the bytes and of the control symbols by the running disparity, and
what a receiver makes of a pattern. The tables are the published ones of the code (PRESUMED, log 21). -/

namespace Sys2Proof.Machine

/-- What a receiver makes of a pattern (R186, R187). -/
inductive Symbol where
  /-- One of the two patterns of a byte. -/
  | data (b : Byte)
  /-- K28.5, which fills the line between frames and carries no byte (R186). -/
  | idle
  /-- K27.7, which opens a frame (R186). -/
  | start
  /-- K29.7, which closes a frame (R186). -/
  | finish
  /-- A pattern that is neither a data symbol nor a control symbol (R186, R187). -/
  | violation
  deriving DecidableEq, Repr

/-- The running disparity of a line (R186). -/
inductive Disparity where
  | minus
  | plus
  deriving DecidableEq, Repr

/-- The side of a pair that belongs to a disparity, the negative one first. -/
def Disparity.pick {α : Type} (d : Disparity) (pair : α × α) : α :=
  match d with
  | .minus => pair.1
  | .plus => pair.2

/-- The ones in a group of bits. -/
def ones {n : Nat} (p : BitVec n) : Nat := (List.range n).countP p.getLsbD

/-- The disparity behind a group of bits: kept by a group with as many ones as zeros, turned by any other. -/
def Disparity.after {n : Nat} (d : Disparity) (p : BitVec n) : Disparity :=
  if 2 * ones p = n then d
  else
    match d with
    | .minus => .plus
    | .plus => .minus

/-- The first six bits of a byte's pattern, by its low five bits from 0 to 31: for a negative and for a positive disparity (log 21). -/
def sixTable : List (BitVec 6 × BitVec 6) :=
  [(0b100111, 0b011000), (0b011101, 0b100010), (0b101101, 0b010010), (0b110001, 0b110001), (0b110101, 0b001010),
    (0b101001, 0b101001), (0b011001, 0b011001), (0b111000, 0b000111), (0b111001, 0b000110), (0b100101, 0b100101),
    (0b010101, 0b010101), (0b110100, 0b110100), (0b001101, 0b001101), (0b101100, 0b101100), (0b011100, 0b011100),
    (0b010111, 0b101000)] ++
  [(0b011011, 0b100100), (0b100011, 0b100011), (0b010011, 0b010011), (0b110010, 0b110010), (0b001011, 0b001011),
    (0b101010, 0b101010), (0b011010, 0b011010), (0b111010, 0b000101), (0b110011, 0b001100), (0b100110, 0b100110),
    (0b010110, 0b010110), (0b110110, 0b001001), (0b001110, 0b001110), (0b101110, 0b010001), (0b011110, 0b100001),
    (0b101011, 0b010100)]

/-- The last four bits of a byte's pattern, by its high three bits from 0 to 7 (log 21). -/
def fourTable : List (BitVec 4 × BitVec 4) :=
  [(0b1011, 0b0100), (0b1001, 0b1001), (0b0101, 0b0101), (0b1100, 0b0011), (0b1101, 0b0010), (0b1010, 0b1010), (0b0110, 0b0110),
    (0b1110, 0b0001)]

/-- The other form of the last four bits for the high bits 7, which keeps runs of five equal bits off the line (log 21). -/
def fourAlternate : BitVec 4 × BitVec 4 := (0b0111, 0b1000)

/-- The low five bits for which the other form is taken at a disparity (log 21). -/
def takesAlternate (d : Disparity) (low : Nat) : Bool :=
  match d with
  | .minus => low == 17 || low == 18 || low == 20
  | .plus => low == 11 || low == 13 || low == 14

/-- The pattern of a byte at a running disparity (R186). -/
def dataPattern (d : Disparity) (b : Byte) : Pattern :=
  let low := b.toNat % 32
  let high := b.toNat / 32
  let six := d.pick (sixTable.getD low (0, 0))
  let d' := d.after six
  six ++ d'.pick (if high = 7 ∧ takesAlternate d' low = true then fourAlternate else fourTable.getD high (0, 0))

/-- K28.5 (R186; log 21). -/
def idlePattern (d : Disparity) : Pattern := d.pick (0b0011111010, 0b1100000101)

/-- K27.7 (R186; log 21). -/
def startPattern (d : Disparity) : Pattern := d.pick (0b1101101000, 0b0010010111)

/-- K29.7 (R186; log 21). -/
def finishPattern (d : Disparity) : Pattern := d.pick (0b1011101000, 0b0100010111)

/-- The pattern is one of a pair. -/
def isOf (pair : Disparity → Pattern) (p : Pattern) : Bool := p == pair .minus || p == pair .plus

/-- The one byte that a pattern's two groups of bits can stand for, if there is one. -/
def byteCandidate (p : Pattern) : Option Byte :=
  let six := p.extractLsb' 4 6
  let four := p.extractLsb' 0 4
  match sixTable.findIdx? (fun t => t.1 == six || t.2 == six),
    (fourTable ++ [fourAlternate]).findIdx? (fun t => t.1 == four || t.2 == four) with
  | some low, some high => some (BitVec.ofNat 8 (32 * min high 7 + low))
  | _, _ => none

/-- The byte that a pattern stands for: the one of which it is a pattern (R186). -/
def byteOf (p : Pattern) : Option Byte := (byteCandidate p).filter (fun b => isOf (fun d => dataPattern d b) p)

/-- What a receiver makes of a pattern: a control symbol, a byte, or a code violation; the other control codes of 8b/10b are violations
(R186, R187). -/
def symbolOf (p : Pattern) : Symbol :=
  if isOf idlePattern p then .idle
  else if isOf startPattern p then .start
  else if isOf finishPattern p then .finish
  else
    match byteOf p with
    | some b => .data b
    | none => .violation

/-- The patterns of some bytes and of the END behind them, from a running disparity (R186, R193). -/
def sendBytes : Disparity → List Byte → List Pattern
  | d, [] => [finishPattern d]
  | d, b :: l => dataPattern d b :: sendBytes (d.after (dataPattern d b)) l

/-- A frame of some bytes on its line: START, the bytes, END, from the running disparity at its START (R186, R193). That disparity hangs
on how many IDLE went before, which is time (log 2), so the state does not hold it. -/
def lineOf (d : Disparity) (l : List Byte) : List Pattern := startPattern d :: sendBytes (d.after (startPattern d)) l

end Sys2Proof.Machine
end

