-- ==== Sys2Proof/Machine/Receiver.lean ====
section
/-! DEFINITION. A port's receiver: what each symbol it takes does to it, and the events that come of it (R187, R188). -/

namespace Sys2Proof.Machine

/-- What a symbol can bring about at a receiver (R187, R188). -/
inductive RxEvent where
  /-- The 64th of a run of IDLE: the port comes UP. -/
  | comesUp
  /-- The fourth code violation within 64 symbols: the port goes DOWN. -/
  | goesDown
  /-- A frame is whole, or is broken off. -/
  | frame (f : Arriving) (ending : FrameEnd)
  /-- A frame reaches its 514th byte. -/
  | overlong
  deriving DecidableEq, Repr

/-- A frame with one more byte, unless that is its 514th: then it fails the format, a code violation in it or none, and the receiver discards
symbols up to the next END or START (R188; DEDUCED where it holds a violation, log 22). -/
def Arriving.more (f : Arriving) (b : Byte) : Option Arriving × Option RxEvent :=
  if f.bytes.length < Config.frameMax then (some { f with bytes := f.bytes ++ [b] }, none) else (none, some .overlong)

/-- The delimiting of frames by an UP receiver: the open frame after a symbol, and the event it brings (R188). Data outside a frame is
ignored, and an IDLE carries no byte (log 7). -/
def delimit (open? : Option Arriving) (x : Symbol) : Option Arriving × Option RxEvent :=
  match x, open? with
  | .start, none => (some ⟨[], false⟩, none)
  | .start, some f => (some ⟨[], false⟩, some (.frame f .secondStart))
  | .finish, none => (none, none)
  | .finish, some f => (none, some (.frame f .endSymbol))
  | .data _, none => (none, none)
  | .data b, some f => f.more b
  | .idle, o => (o, none)
  | .violation, none => (none, none)
  | .violation, some f => (some { f with violated := true }, none)

namespace Receiver

/-- An UP receiver takes a symbol: DOWN at the fourth code violation within 64 symbols, a frame in progress being discarded without a
count; else the symbol is delimited (R187, R188). -/
def takeUp (r : Receiver) (x : Symbol) : Receiver × Option RxEvent :=
  let recent := ((x == .violation) :: r.recent).take 64
  if 4 ≤ recent.count true then (.quiet, some .goesDown)
  else ({ r with recent := recent.take 63, frame := (delimit r.frame x).1 }, (delimit r.frame x).2)

/-- A DOWN receiver takes a symbol: UP at the 64th consecutive IDLE; any other symbol starts the run again (R187). -/
def takeDown (r : Receiver) (x : Symbol) : Receiver × Option RxEvent :=
  if x = .idle then
    if 64 ≤ r.idleRun + 1 then (.quiet, some .comesUp) else ({ Receiver.quiet with idleRun := r.idleRun + 1 }, none)
  else (.quiet, none)

/-- A receiver in a link state, true for UP, takes a symbol (R187). -/
def take (up : Bool) (r : Receiver) (x : Symbol) : Receiver × Option RxEvent := if up then r.takeUp x else r.takeDown x

/-- A receiver takes symbols up to the first event: what it then keeps, and the event with the symbols behind it. -/
def run (up : Bool) (r : Receiver) : List Symbol → Receiver × Option (RxEvent × List Symbol)
  | [] => (r, none)
  | x :: rest =>
    match r.take up x with
    | (r', none) => r'.run up rest
    | (r', some e) => (r', some (e, rest))

end Receiver

end Sys2Proof.Machine
end

