-- ==== Sys2Proof/Machine/State.lean ====
section
/-! DEFINITION. The state of the part, its value right after power-on reset, and the reasons a step could stop. -/

namespace Sys2Proof.Machine

/-- Everything the spec gives the part, and the queue of steps that wait. The fields follow INVENTORY.md, "State". -/
structure State where
  /-- The node address sampled at the end of power-on reset (R169). -/
  nodeAddr : BitVec 6
  /-- The level of TRIP_N last sampled; true is high (R108). -/
  tripHigh : Bool
  /-- FAULT_N is driven low (R103). -/
  faultLow : Bool
  /-- Port U's link state; true is UP (R187). -/
  upU : Bool
  /-- Port D's link state; true is UP (R187). -/
  upD : Bool
  /-- What port U's receiver keeps of the symbols taken (R187, R188). -/
  rxU : Receiver
  /-- What port D's receiver keeps of the symbols taken (R187, R188). -/
  rxD : Receiver
  /-- The frame on port D's transmit line (R192, R193). -/
  txD : Option OnLine
  /-- The frame on port U's transmit line, byte for byte as received (R190). -/
  txU : Option (List Byte)
  /-- The Forward Queue, head first (R189). -/
  forward : List Queued
  /-- The Return Queue, head first (R190). -/
  ret : List (List Byte)
  /-- The reply list of the Outbound Queue, oldest first (R191). -/
  replies : List Reply
  /-- The alert slot of the Outbound Queue; none is EMPTY (R152). -/
  alertSlot : Option WaitingAlert
  /-- The Arbiter's flag (R192). -/
  slotOwed : Bool
  /-- The eight counters (R178). -/
  counters : Counters
  /-- The Table Store (R3, R14, R123). -/
  tables : TableStore
  /-- The Cycle Tracker (R21). -/
  tracker : Tracker
  /-- The Checker's repeat map; true is reported (R49). -/
  repeats : Vector Bool 96
  /-- The channel runtime records (R66). -/
  channels : Vector ChannelRecord 96
  /-- The group records (R102). -/
  groups : Vector GroupRecord 8
  /-- The Fault Log (R141). -/
  log : FaultLog
  /-- The test record (R157). -/
  test : TestRecord
  /-- The Command FIFO, head first (R168). -/
  cmdFifo : List Command
  /-- The steps that wait, first in first out: the model's own field. -/
  pending : List Instr
  deriving DecidableEq, Repr

/-- The reasons for a fault: none. No rule of the spec stops the part, and no meaning faults. -/
inductive Fault where
  deriving DecidableEq, Repr

/-- The reasons for a refusal. -/
inductive Refusal where
  /-- Raised by a dispatch arm whose instruction has no meaning yet; no arm is left so. Safe: the machine stops. -/
  | notModelled (mnemonic : String)
  deriving DecidableEq, Repr

/-- The state right after power-on reset (R3, R22, R49, R68, R102, R103, R123, R141, R157, R168, R178, R187, R189 to R192). The
straps and the TRIP_N level come from outside: node 0 and high here (DESIGN CHOICE, log 1; unsafe). -/
def State.reset : State where
  nodeAddr := 0
  tripHigh := true
  faultLow := false
  upU := false
  upD := false
  rxU := .quiet
  rxD := .quiet
  txD := none
  txU := none
  forward := []
  ret := []
  replies := []
  alertSlot := none
  slotOwed := false
  counters := .zero
  tables := .powerOn
  tracker := .powerOn
  repeats := clearMap
  channels := Vector.replicate 96 (.fresh .idle)
  groups := Vector.replicate 8 .armed
  log := .powerOn
  test := .powerOn
  cmdFifo := []
  pending := []

end Sys2Proof.Machine
end

