-- ==== Sys2Proof/Machine/Flags.lean ====
section
/-! DEFINITION. Sets as flags: condition classes, record kinds and groups, and their flag bytes (R5, R12, R197). -/

namespace Sys2Proof.Machine

/-! ### Condition classes -/

/-- The set names no class. -/
def ClassSet.isEmpty (k : ClassSet) : Bool :=
  !(k.high || k.low || k.rate || k.qual || k.stale || k.warn)

/-- The set that names QUAL alone (R54). -/
def ClassSet.qualOnly : ClassSet := { ClassSet.none with qual := true }

/-- The set that names STALE alone (R75). -/
def ClassSet.staleOnly : ClassSet := { ClassSet.none with stale := true }

/-- The set of the three value checks (R57, R58). -/
def ClassSet.ofChecks (high low rate : Bool) : ClassSet :=
  { ClassSet.none with high := high, low := low, rate := rate }

/-- An evaluation is violating when its set of fault classes is not empty (R63). -/
def ClassSet.verdict (k : ClassSet) : Verdict := if k.isEmpty then .clean else .violating

/-- The flag at a bit position, as a number to be summed. -/
def flagAt (b : Bool) (bit : Nat) : Nat := if b then 2 ^ bit else 0

/-- Classes as a flag byte, in the order HIGH, LOW, RATE, QUAL, STALE, WARN from bit 0 (R197). -/
def ClassSet.toNat (k : ClassSet) : Nat :=
  flagAt k.high 0 + flagAt k.low 1 + flagAt k.rate 2 + flagAt k.qual 3 + flagAt k.stale 4 + flagAt k.warn 5

/-- The classes a flag byte names (R197); its upper two bits are judged by R17 before this is used. -/
def ClassSet.ofNat (n : Nat) : ClassSet :=
  ⟨n.testBit 0, n.testBit 1, n.testBit 2, n.testBit 3, n.testBit 4, n.testBit 5⟩

/-! ### Record kinds -/

/-- The ten kinds as flags in R12's order from bit 0 (R197). -/
def KindSet.toNat (k : KindSet) : Nat :=
  flagAt k.fault 0 + flagAt k.recover 1 + flagAt k.warn 2 + flagAt k.trip 3 + flagAt k.rearm 4 + flagAt k.link 5 +
    flagAt k.seq 6 + flagAt k.dup 7 + flagAt k.commit 8 + flagAt k.mode 9

/-- The kinds that ten flags name (R197). -/
def KindSet.ofNat (n : Nat) : KindSet :=
  ⟨n.testBit 0, n.testBit 1, n.testBit 2, n.testBit 3, n.testBit 4, n.testBit 5, n.testBit 6, n.testBit 7, n.testBit 8,
    n.testBit 9⟩

/-- The kind of a record is in the set (R151). -/
def KindSet.has (k : KindSet) : RecordBody → Bool
  | .fault .. => k.fault
  | .recover .. => k.recover
  | .warn .. => k.warn
  | .trip .. => k.trip
  | .rearm .. => k.rearm
  | .linkLost .. => k.link
  | .linkRestored => k.link
  | .seq .. => k.seq
  | .dup .. => k.dup
  | .commit .. => k.commit
  | .mode .. => k.mode

/-! ### Groups -/

/-- The eight groups, ascending. -/
def allGroups : List Grp := List.finRange 8

/-- The 96 table channels, ascending. -/
def allChannels : List Chan := List.finRange 96

/-- A set of groups as a flag byte, groups 0..7 from bit 0 (R197). -/
def groupFlags (v : Vector Bool 8) : Nat := (allGroups.map (fun g => flagAt v[g] g.val)).sum

/-! ### Saturating counts and cycle numbers -/

/-- A count of `k` more on a counter that stays at 65,535 (R21, R178). -/
def saturate (n k : Nat) : Nat := min Config.counterMax (n + k)

/-- Cycle number a is ahead of b (R2). -/
def ahead (a b : CycleNo) : Bool := decide (1 ≤ (a - b).toNat ∧ (a - b).toNat ≤ 32767)

/-- Cycle c has reached target n when n is not ahead of c (R2). -/
def reached (c n : CycleNo) : Bool := !ahead n c

/-- A number saturated into the sample value range (R1). -/
def saturateSample (x : Int) : Sample := BitVec.ofInt 24 (max (-8388608) (min 8388607 x))

/-- The nearest integer to x / 16384, and the one farther from zero where x / 16384 lies halfway between two (R55). -/
def roundGain (x : Int) : Int := x.sign * ((x.natAbs + 8192) / 16384 : Nat)

/-- The conditioned value of a raw value under a channel's gain and offset: exact until the one saturation of the sum (R55). -/
def conditioned (e : ChannelEntry) (raw : Sample) : Sample :=
  saturateSample (roundGain (raw.toInt * e.gain.toInt) + e.offset.toInt)

end Sys2Proof.Machine
end

