-- ==== Sys2Proof/Machine/Ops.lean ====
section
/-! DEFINITION. The named operations on the state that the blocks share: reading the active bank, submitting a record, trip
requests, rearm, resetting runtime records. -/

namespace Sys2Proof.Machine

/-! ### Reading the tables (R3, R4) -/

def BankLetter.other : BankLetter → BankLetter
  | .a => .b
  | .b => .a

def TableStore.bank (t : TableStore) : BankLetter → Bank
  | .a => t.bankA
  | .b => t.bankB

/-- The bank that holds a role, by its letter (R18). -/
def TableStore.letter (t : TableStore) : BankRole → BankLetter
  | .active => t.active
  | .staging => t.active.other

/-- The active bank (R3). -/
def TableStore.activeBank (t : TableStore) : Bank := t.bank t.active

/-- The staging bank: the one that is not active (R3). -/
def TableStore.stagingBank (t : TableStore) : Bank := t.bank t.active.other

/-- The staging bank's content replaced. -/
def TableStore.setStaging (t : TableStore) (b : Bank) : TableStore :=
  match t.active with
  | .a => { t with bankB := b }
  | .b => { t with bankA := b }

namespace State

/-- The active entry of a table channel (R4). -/
def entry (s : State) (c : Chan) : ChannelEntry := s.tables.activeBank.channels[c]

/-- The active entry of a group (R4). -/
def groupEntry (s : State) (g : Grp) : GroupEntry := s.tables.activeBank.groups[g]

/-- The active cycle parameters record (R12). -/
def params (s : State) : CycleParams := s.tables.activeBank.cycle

/-- The runtime record of a table channel (R66). -/
def channel (s : State) (c : Chan) : ChannelRecord := s.channels[c]

/-- The record of a group (R102). -/
def group (s : State) (g : Grp) : GroupRecord := s.groups[g]

def setChannel (s : State) (c : Chan) (r : ChannelRecord) : State := { s with channels := s.channels.set c r }

def setGroup (s : State) (g : Grp) (r : GroupRecord) : State := { s with groups := s.groups.set g r }

/-- The channel is checked: the device mode is ACTIVE and its active mode is MONITOR or GUARD (R7). -/
def checked (s : State) (c : Chan) : Bool := s.tables.deviceMode == .active && (s.entry c).mode != .off

/-- The channel is a GUARD member of the group (R10). -/
def guardMember (s : State) (g : Grp) (c : Chan) : Bool := (s.entry c).group == some g && (s.entry c).mode == .guard

/-- The cycle field a record carries for last_cycle: absent in NOSYNC (R40, R142). -/
def stamp (s : State) : Option CycleNo := if s.tracker.state = .nosync then none else some s.tracker.lastCycle

/-- At least one group is TRIPPED (R103). -/
def anyTripped (s : State) : Bool := allGroups.any (fun g => (s.group g).state == .tripped)

end State

/-- The channel is expected in cycle n (R8). -/
def ChannelEntry.expected (e : ChannelEntry) (n : CycleNo) : Bool := n.toNat % e.period == e.phase

/-! ### The fault log (R144 to R152) -/

/-- The log after a record of this cycle and body is submitted: accepted below 64 records, else discarded (R144, R145). -/
def FaultLog.submit (l : FaultLog) (cycle : Option CycleNo) (body : RecordBody) : FaultLog :=
  if l.records.length < Config.logPlaces then
    { l with records := l.records ++ [⟨l.nextSequence, cycle, body⟩], nextSequence := l.nextSequence + 1 }
  else { l with lost := saturate l.lost 1 }

/-- The waiting ALERT after an alert-worthy submission (R152). -/
def alertAfter (l : FaultLog) (slot : Option WaitingAlert) (cycle : Option CycleNo) (body : RecordBody) : WaitingAlert :=
  if l.records.length < Config.logPlaces then ⟨some l.nextSequence, some ⟨l.nextSequence, cycle, body⟩⟩
  else ⟨slot.bind (·.newest), none⟩

/-- A record is submitted: accepted or discarded, and then the ALERT is placed or updated when its kind is in the active
alert_kinds (R146, R151). -/
def submit (cycle : Option CycleNo) (body : RecordBody) (s : State) : State :=
  { s with
    log := s.log.submit cycle body
    alertSlot := if s.params.alertKinds.has body then some (alertAfter s.log s.alertSlot cycle body) else s.alertSlot }

/-- The log emptied, lost set to 0 and a waiting ALERT removed; next_sequence kept (R141, R149). -/
def clearLog (s : State) : State :=
  { s with log := { s.log with records := [], lost := 0 }, alertSlot := none }

/-! ### Trip requests (R104 to R106) -/

/-- A trip request for one group (R104). -/
structure TripRequest where
  group : Grp
  cause : TripCause
  channel : Option Chan
  cycle : Option CycleNo
  deriving DecidableEq, Repr

/-- The group record of a group that the request trips (R104, steps 1 to 3). -/
def TripRequest.record (q : TripRequest) (holdoff : Nat) : GroupRecord where
  state := .tripped
  cause := some q.cause
  causeChannel := q.channel
  tripCycle := q.cycle
  holdoffLeft := holdoff

/-- A trip request reaches its group: ignored in BYPASS (R106), it trips an ARMED group (R104) and restarts the hold-off of a
TRIPPED one (R105). -/
def tripRequest (q : TripRequest) (s : State) : State :=
  if s.tables.deviceMode = .bypass then s
  else
    match (s.group q.group).state with
    | .armed =>
      { submit q.cycle (.trip q.group q.cause q.channel) (s.setGroup q.group (q.record (s.groupEntry q.group).holdoff)) with
        faultLow := true }
    | .tripped =>
      s.setGroup q.group { s.group q.group with holdoffLeft := (s.groupEntry q.group).holdoff }

/-- One request for each group of a list, each finished before the next (R104). A cause other than CHANNEL carries last_cycle, or no
cycle in NOSYNC. -/
def tripGroups (cause : TripCause) : List Grp → State → State
  | [], s => s
  | g :: rest, s => tripGroups cause rest (tripRequest ⟨g, cause, none, s.stamp⟩ s)

/-! ### Rearm (R112) -/

/-- The first condition that keeps a TRIPPED group from being ready, or none when all four hold (R112). -/
def failedCondition (s : State) (g : Grp) : Option FailedCondition :=
  match allChannels.find? (fun c => s.guardMember g c && (s.channel c).state == .faulted) with
  | some c => some (.member c)
  | none =>
    if (s.groupEntry g).pinBound && !s.tripHigh then some .pin
    else if (s.groupEntry g).linkBound && s.tracker.state == .nosync then some .link
    else if (s.group g).holdoffLeft ≠ 0 then some (.holdoff (s.group g).holdoffLeft)
    else none

/-- The rearm of a ready group: ARMED, its cause fields absent, a REARM record, FAULT_N released if no other group is TRIPPED
(R112). -/
def rearmGroup (how : RearmHow) (g : Grp) (s : State) : State :=
  submit s.stamp (.rearm g how)
    { s.setGroup g .armed with faultLow := s.faultLow && (s.setGroup g .armed).anyTripped }

/-- The treatment of one group by REARM (R114). -/
def tryRearm (how : RearmHow) (g : Grp) (s : State) : State × RearmItem :=
  match (s.group g).state with
  | .armed => (s, .alreadyArmed)
  | .tripped =>
    match failedCondition s g with
    | some why => (s, .notReady why)
    | none => (rearmGroup how g s, .rearmed)

/-! ### Resetting runtime records (R68, R80, R81) -/

/-- The reset values of a channel's record, with state CLEAN if it is checked and IDLE otherwise (R68). -/
def State.freshRecord (s : State) (c : Chan) : ChannelRecord := .fresh (if s.checked c then .clean else .idle)

/-- The records of the channels marked take their reset values; the others are kept whole (R80). -/
def resetRecords (marked : Vector Bool 96) (s : State) : State :=
  { s with channels := Vector.ofFn (fun c : Chan => if marked[c] then s.freshRecord c else s.channel c) }

/-- Every record takes its reset values (R68, R81). -/
def resetAllRecords (s : State) : State := { s with channels := Vector.ofFn s.freshRecord }

end Sys2Proof.Machine
end

