-- ==== Sys2Proof/Machine/Samples.lean ====
section
/-! DEFINITION. The conditioning chain: the Channel Checker (03), the Channel State Unit (04) and the Substitution Unit's choices
(05). -/

namespace Sys2Proof.Machine

/-! ### Quality (R52, R196) -/

/-- A quality code as the Checker reads it: a code that is none of the four is BAD (R52, R196). -/
def readQuality (q : Byte) : Quality :=
  if q = 0 then .ok else if q = 1 then .sat else if q = 3 then .subst else .bad

/-- The wire code of a quality (R196). -/
def Quality.code : Quality → Byte
  | .ok => 0
  | .sat => 1
  | .bad => 2
  | .subst => 3

/-- A sample of quality q raises QUAL (R53). -/
def raisesQual (e : ChannelEntry) (q : Quality) : Bool :=
  e.classes.qual && (q == .bad || q == .subst || (q == .sat && e.satIsFault))

/-! ### The value checks (R57, R58) -/

/-- HIGH (R57). -/
def raisesHigh (e : ChannelEntry) (v : Sample) : Bool := e.classes.high && decide (e.highLimit.toInt < v.toInt)

/-- LOW (R57). -/
def raisesLow (e : ChannelEntry) (v : Sample) : Bool := e.classes.low && decide (v.toInt < e.lowLimit.toInt)

/-- RATE, against the baseline as it stood before the sample (R58). -/
def raisesRate (e : ChannelEntry) (base : Option Sample) (v : Sample) : Bool :=
  match base with
  | none => false
  | some b => e.classes.rate && decide (0 < e.rateLimit) && decide (e.rateLimit < (v.toInt - b.toInt).natAbs)

/-- The value lies outside the warning window (R61). -/
def outsideWindow (e : ChannelEntry) (v : Sample) : Bool :=
  !(decide (e.warnLow.toInt ≤ v.toInt) && decide (v.toInt ≤ e.warnHigh.toInt))

/-- The Checker's outcome for a sample that is no duplicate (R52 to R58, R63). -/
def checkOutcome (e : ChannelEntry) (base : Option Sample) (x : SampleEntry) : CheckOutcome :=
  let q := readQuality x.quality
  if raisesQual e q then ⟨.qualOnly, x.value, q, none⟩
  else
    let v := conditioned e x.value
    ⟨.ofChecks (raisesHigh e v) (raisesLow e v) (raisesRate e base v), x.value, q, some v⟩

/-- The outcome's reported value (R63). -/
def CheckOutcome.reported (o : CheckOutcome) : Sample := o.conditioned.getD o.received

/-- The value that the rate baseline and the warning window take: the conditioned value of a sample that raised no fault class
(R59, R61). -/
def CheckOutcome.faultFree (o : CheckOutcome) : Option Sample := if o.classes.isEmpty then o.conditioned else none

/-- The Checker's changes to the runtime record of a channel for a fault-free conditioned value: the baseline follows it, and
in_warn tells whether it lies outside the window (R59, R61). -/
def ChannelRecord.checkedValue (r : ChannelRecord) (e : ChannelEntry) (v : Sample) : ChannelRecord :=
  { r with rateBase := some v, inWarn := e.classes.warn && outsideWindow e v }

/-- The baseline, the warning flag and any WARN record of a judged sample (R59, R61, R62, R64 steps 3 and 4). -/
def noteValue (c : Chan) (o : CheckOutcome) (s : State) : State :=
  match o.faultFree with
  | none => s
  | some v =>
    let r := s.channel c
    let r' := r.checkedValue (s.entry c) v
    let s' := s.setChannel c r'
    if r'.inWarn && !r.inWarn then submit s.stamp (.warn c v) s' else s'

/-! ### Evaluations (R69 to R77) -/

/-- The history after a verdict, cut to the window (R69, steps 1 and 2). -/
def pushVerdict (window : Nat) (history : List Verdict) (v : Verdict) : List Verdict := (v :: history).take window

/-- The number of violating entries (R66). -/
def countViolating (history : List Verdict) : Nat := history.countP (fun v => v == .violating)

/-- The record after the history update of an evaluation (R69). -/
def ChannelRecord.pushed (r : ChannelRecord) (window : Nat) (v : Verdict) : ChannelRecord :=
  { r with history := pushVerdict window r.history v, violations := countViolating (pushVerdict window r.history v) }

/-- The record of a channel that qualifies a fault (R70, steps 1 and 2). -/
def ChannelRecord.qualified (r : ChannelRecord) (classes : ClassSet) (n : CycleNo) : ChannelRecord :=
  { r with state := .faulted, recovery := 0, faultClasses := some classes, faultCycle := some n }

/-- The record of a channel that recovers (R73, steps 1 to 3). -/
def ChannelRecord.recovered (r : ChannelRecord) : ChannelRecord :=
  { r with state := .clean, history := [], violations := 0, recovery := 0, faultClasses := none, faultCycle := none }

/-- Qualification: the record, the FAULT record, and the trip request of a GUARD channel with trip yes (R70, R71, R74). -/
def qualifyFault (c : Chan) (n : CycleNo) (classes : ClassSet) (value : Option Sample) (r : ChannelRecord) (s : State) : State :=
  let e := s.entry c
  let s' := submit (some n) (.fault c classes value e.group) (s.setChannel c (r.qualified classes n))
  match e.group with
  | none => s'
  | some g => if e.mode == .guard && e.trip then tripRequest ⟨g, .channel, some c, some n⟩ s' else s'

/-- One evaluation of a channel is taken whole: history, then recovery, qualification or the state by violations (R69, R72). -/
def evaluate (c : Chan) (n : CycleNo) (classes : ClassSet) (value : Option Sample) (s : State) : State :=
  let e := s.entry c
  let r := (s.channel c).pushed e.window classes.verdict
  if (s.channel c).state = .faulted then
    if classes.isEmpty then
      if e.recovery ≤ r.recovery + 1 then submit (some n) (.recover c) (s.setChannel c r.recovered)
      else s.setChannel c { r with recovery := r.recovery + 1 }
    else s.setChannel c { r with recovery := 0 }
  else if e.threshold ≤ r.violations then qualifyFault c n classes value r s
  else s.setChannel c { r with state := if r.violations = 0 then .clean else .suspect }

/-- The channel takes a STALE evaluation at a trigger for cycle n with this seen map (R75). -/
def takesStale (s : State) (n : CycleNo) (seen : Vector Bool 96) (c : Chan) : Bool :=
  s.checked c && (s.entry c).expected n && !seen[c] && (s.entry c).classes.stale

/-- The STALE evaluations of one trigger over some channels in order, each whole before the next (R75). -/
def staleOver (n : CycleNo) (seen : Vector Bool 96) : List Chan → State → State
  | [], s => s
  | c :: rest, s =>
    staleOver n seen rest (if takesStale s n seen c then evaluate c n .staleOnly none s else s)

/-- A STALE trigger from the tracker (R42, R75). -/
def staleTrigger (n : CycleNo) (seen : Vector Bool 96) (s : State) : State := staleOver n seen allChannels s

/-- The STALE triggers of `k` cycles with no channel seen, from cycle n upward (R29, R42). -/
def staleRun : Nat → CycleNo → State → State
  | 0, _, s => s
  | k + 1, n, s => staleRun k (n + 1) (staleTrigger n clearMap s)

/-! ### Substitution (R86 to R93) -/

/-- The group of a channel's active entry is TRIPPED; no for a channel with no group (R88). -/
def groupTripped (s : State) (e : ChannelEntry) : Bool :=
  match e.group with
  | none => false
  | some g => (s.group g).state == .tripped

/-- The held value: last_good, or safe_value where it is absent (R88, R97). -/
def heldValue (e : ChannelEntry) (r : ChannelRecord) : Sample := r.lastGood.getD e.safeValue

/-- A row-6 choice of R88, and the choice for a MONITOR channel: the reported value with the received quality (R88, R93). -/
def unaltered (o : CheckOutcome) : Sample × Quality := (o.reported, o.quality)

/-- The choice is made by row 6 of R88: no group trip, not FAULTED, and the sample clean or hold_suspect no. -/
def guardUnaltered (s : State) (e : ChannelEntry) (r : ChannelRecord) (o : CheckOutcome) : Bool :=
  !groupTripped s e && r.state != .faulted && (o.classes.isEmpty || !e.holdSuspect)

/-- The value and quality of a GUARD sample's outgoing entry (R88). -/
def guardChoice (s : State) (e : ChannelEntry) (r : ChannelRecord) (o : CheckOutcome) : Sample × Quality :=
  if groupTripped s e then (e.safeValue, .subst)
  else if r.state = .faulted then
    match e.reaction with
    | .safe => (e.safeValue, .subst)
    | .hold => (heldValue e r, .subst)
    | .mark => (o.reported, .bad)
  else if !o.classes.isEmpty && e.holdSuspect then (heldValue e r, .subst)
  else unaltered o

/-- The value and quality of a checked sample's outgoing entry (R88, R93). -/
def choice (s : State) (c : Chan) (o : CheckOutcome) : Sample × Quality :=
  if (s.entry c).mode = .guard then guardChoice s (s.entry c) (s.channel c) o else unaltered o

/-- last_good after a sample is emitted: it takes the conditioned value of a sample emitted unaltered while the channel is not
FAULTED (R78). -/
def updateLastGood (c : Chan) (o : CheckOutcome) (s : State) : State :=
  let e := s.entry c
  let r := s.channel c
  match o.conditioned with
  | none => s
  | some v =>
    if r.state != .faulted && (e.mode != .guard || guardUnaltered s e r o) then s.setChannel c { r with lastGood := some v }
    else s

/-! ### The work on one sample (R45 to R51, R64) -/

/-- The table channel a channel number names, if it is below 96. -/
def tableChannel (b : Byte) : Option Chan := if h : b.toNat < 96 then some ⟨b.toNat, h⟩ else none

def State.markSeen (s : State) (c : Chan) : State := { s with tracker := { s.tracker with seen := s.tracker.seen.set c true } }

/-- A duplicate: the repeat mark, and a DUP record the first time (R48, R49). -/
def noteDuplicate (c : Chan) (s : State) : State :=
  if s.repeats[c] then s else submit s.stamp (.dup c) { s with repeats := s.repeats.set c true }

/-- The judging of a sample that is no duplicate, and its outgoing entry (R52 to R64, R69, R78, R86). -/
def judge (c : Chan) (x : SampleEntry) (s : State) : State × SampleEntry :=
  let o := checkOutcome (s.entry c) (s.channel c).rateBase x
  let s₁ := noteValue c o s
  let s₂ := evaluate c s.tracker.lastCycle o.classes (some o.reported) s₁
  let out := choice s₂ c o
  (updateLastGood c o s₂, { x with value := out.1, quality := out.2.code })

/-- The work on one sample of a processed segment: the state after it and its outgoing entry, none for a duplicate (R45, R46, R47,
R48). A sample left when a RESET DEVICE has given up the cycle is forwarded unaltered (R65). -/
def sampleWork (x : SampleEntry) (s : State) : State × Option SampleEntry :=
  if s.tracker.state ≠ .opened then (s, some x)
  else
    match tableChannel x.channel with
    | none => (s, some x)
    | some c =>
      if !s.checked c then (s.markSeen c, some x)
      else if s.tracker.seen[c] then (noteDuplicate c s, none)
      else
        let p := judge c x (s.markSeen c)
        (p.1, some p.2)

/-! ### FILL entries (R96, R97) -/

/-- The channel is filled at the close of cycle n (R96). -/
def isFilled (s : State) (n : CycleNo) (c : Chan) : Bool :=
  (s.entry c).mode == .guard && (s.entry c).expected n && !s.tracker.seen[c]

/-- The fill value of a channel in its present situation (R97): the rows for a GUARD channel, row 5 for any other. -/
def fillValue (s : State) (c : Chan) : Sample × Quality :=
  let e := s.entry c
  let r := s.channel c
  if e.mode = .guard then
    if groupTripped s e then (e.safeValue, .subst)
    else if r.state = .faulted then
      match e.reaction with
      | .safe => (e.safeValue, .subst)
      | .hold => (heldValue e r, .subst)
      | .mark => (heldValue e r, .bad)
    else (heldValue e r, .subst)
  else (heldValue e r, .subst)

/-- The FILL entries of the close of cycle n, in ascending channel order (R99). -/
def fillEntries (s : State) (n : CycleNo) : List SampleEntry :=
  (allChannels.filter (isFilled s n)).map fun c =>
    ⟨BitVec.ofNat 8 c.val, (fillValue s c).1, (fillValue s c).2.code⟩

end Sys2Proof.Machine
end

