-- ==== Sys2Proof/Machine/CheckTests.lean ====
section
/-! DEFINITION. The Check Test Unit's runs (09_check_tests.md). -/

namespace Sys2Proof.Machine

/-- The kind of a test, which its expectation's form gives (R158). -/
def Expectation.kind : Expectation → TestKind
  | .limit .. => .limit
  | .rate .. => .rate
  | .qualify .. => .qualify
  | .fill .. => .fill

/-- The observed count of a QUALIFY test: violating evaluations are fed into a scratch window until its count reaches the threshold,
sixteen at most; absent when sixteen do not reach it (R163). -/
def feedScratch (window threshold : Nat) : Nat → Nat → List Verdict → Option Nat
  | 0, _, _ => none
  | left + 1, fed, scratch =>
    let scratch' := pushVerdict window scratch .violating
    if threshold ≤ countViolating scratch' then some (fed + 1) else feedScratch window threshold left (fed + 1) scratch'

/-- What a run finds: outcome, observed field, detail. -/
structure TestFinding where
  outcome : TestOutcome
  observed : Option Observed
  detail : Option TestDetail
  deriving DecidableEq, Repr

/-- PASS when what is observed agrees with the expectation, else FAIL (R160). -/
def passIf (agrees : Bool) (observed : Option Observed) : TestFinding := ⟨if agrees then .pass else .fail, observed, none⟩

/-- A LIMIT run (R161). -/
def limitFinding (e : ChannelEntry) (value : Sample) (high low : Bool) : TestFinding :=
  let v := conditioned e value
  let seen := ClassSet.ofChecks (raisesHigh e v) (raisesLow e v) false
  passIf (seen == ClassSet.ofChecks high low false) (some (.classes seen))

/-- A RATE run (R162). -/
def rateFinding (e : ChannelEntry) (r : ChannelRecord) (value : Sample) (expected : Bool) : TestFinding :=
  match r.rateBase with
  | none => ⟨.fail, none, some .noBase⟩
  | some _ =>
    let raised := raisesRate e r.rateBase (conditioned e value)
    passIf (raised == expected) (some (.classes (.ofChecks false false raised)))

/-- A QUALIFY run (R163). -/
def qualifyFinding (e : ChannelEntry) (expected : Nat) : TestFinding :=
  let n := feedScratch e.window e.threshold 16 0 []
  passIf (n == some expected) (n.map Observed.count)

/-- A FILL run (R164). -/
def fillFinding (s : State) (c : Chan) (expected : Sample) : TestFinding :=
  let f := fillValue s c
  passIf (f.1 == expected) (some (.value f.1 f.2))

/-- What a run of a test finds in a state (R160). -/
def testFinding (t : PendingTest) (s : State) : TestFinding :=
  if (s.entry t.channel).mode = .off then ⟨.aborted, none, some .off⟩
  else
    match t.expectation with
    | .limit high low => limitFinding (s.entry t.channel) t.value high low
    | .rate raised => rateFinding (s.entry t.channel) (s.channel t.channel) t.value raised
    | .qualify count => qualifyFinding (s.entry t.channel) count
    | .fill value => fillFinding s t.channel value

/-- The test ends with a finding at a cycle: the whole last result is written and the pending test is IDLE (R157, R160). -/
def endTest (t : PendingTest) (f : TestFinding) (cycle : Option CycleNo) (s : State) : State :=
  { s with
    test :=
      { pending := none
        last := ⟨f.outcome, some t.expectation.kind, some t.channel, f.observed, f.detail, cycle⟩ } }

/-- The run of a test (R160). -/
def runTest (t : PendingTest) (cycle : Option CycleNo) (s : State) : State := endTest t (testFinding t s) cycle s

/-- Stage 3 of a close: the pending test, if there is one, runs (R33, R159). -/
def runPendingTest (cycle : CycleNo) (s : State) : State :=
  match s.test.pending with
  | none => s
  | some t => runTest t (some cycle) s

/-- A change to BYPASS at the open of a cycle ends a pending test ABORTED with detail MODE (R166). -/
def abortPendingTest (cycle : CycleNo) (s : State) : State :=
  match s.test.pending with
  | none => s
  | some t => endTest t ⟨.aborted, none, some .mode⟩ (some cycle) s

end Sys2Proof.Machine
end

