-- ==== Sys2Proof/Machine/Tables.lean ====
section
/-! DEFINITION. The Table Store's acts: validation, the swap, the bank copy and the change of device mode (07). -/

namespace Sys2Proof.Machine

/-! ### Validation (R126) -/

/-- The relation ORDER of R126. -/
def limitsOrdered (e : ChannelEntry) : Bool :=
  decide (e.lowLimit.toInt ≤ e.warnLow.toInt) && decide (e.warnLow.toInt ≤ e.warnHigh.toInt) &&
    decide (e.warnHigh.toInt ≤ e.highLimit.toInt)

/-- The first check of R126 that an entry fails, if it fails one; an OFF entry is skipped. -/
def validateEntry (e : ChannelEntry) : Option ValidationCheck :=
  if e.mode = .off then none
  else if !limitsOrdered e then some .order
  else if e.window < e.threshold then some .window
  else if e.period ≤ e.phase then some .phase
  else if e.trip && e.group.isNone then some .group
  else none

/-- The first failing entry of a bank and its check, the entries taken in ascending channel number (R126). -/
def validateOver (b : Bank) : List Chan → Option (Chan × ValidationCheck)
  | [] => none
  | c :: rest =>
    match validateEntry b.channels[c] with
    | some k => some (c, k)
    | none => validateOver b rest

/-- Validation of a bank (R126). -/
def validate (b : Bank) : Option (Chan × ValidationCheck) := validateOver b allChannels

/-! ### The swap (R131) -/

/-- The target is reached at the open of cycle n (R128). -/
def targetReached (t : CommitTarget) (n : CycleNo) : Bool :=
  match t with
  | .next => true
  | .atCycle m => reached n m

/-- The Table Store after the swap's own changes: commit NONE, the roles exchanged, BYPASS become ACTIVE, the copy begun (R131,
steps 1, 2, 3 and 6). The marks are kept. -/
def TableStore.swapped (t : TableStore) : TableStore :=
  { t with commit := none, active := t.active.other, deviceMode := .active, copyInFlight := true }

/-- The number of channel marks set (R133). -/
def markedCount (m : Marks) : Nat := (allChannels.filter (fun c => m.channels[c])).length

/-- The COMMIT record of a swap (R133). -/
def commitRecord (m : Marks) : RecordBody := .commit (markedCount m) m.groups m.cycle

/-- The swap at the open of cycle n (R131): every record is reset when the device mode changes, else those of the edited channels. -/
def swap (n : CycleNo) (s : State) : State :=
  let s' := { s with tables := s.tables.swapped }
  let s'' := if s.tables.deviceMode = .bypass then resetAllRecords s' else resetRecords s.tables.marks.channels s'
  submit (some n) (commitRecord s.tables.marks) s''

/-- The swap is made at the open of cycle n if a pending commit's target is reached there (R128). -/
def swapAtOpen (n : CycleNo) (s : State) : State :=
  match s.tables.commit with
  | none => s
  | some t => if targetReached t n then swap n s else s

/-! ### The change to BYPASS (R139) -/

/-- A pending mode change is made or dropped at the open of cycle n (R139). -/
def modeChangeAtOpen (n : CycleNo) (s : State) : State :=
  if s.tables.modeChange then
    if s.anyTripped then
      submit (some n) (.mode .refused) { s with tables := { s.tables with modeChange := false } }
    else
      submit (some n) (.mode .bypass)
        (abortPendingTest n
          (resetAllRecords { s with tables := { s.tables with modeChange := false, deviceMode := .bypass } }))
  else s

/-- The Table Store's work at the open of cycle n (R31). At most one of a commit and a mode change is pending (R124). -/
def tableStoreOpen (n : CycleNo) (s : State) : State := modeChangeAtOpen n (swapAtOpen n s)

/-! ### The bank copy (R134) -/

/-- The Table Store after the completion of a copy: staging equal to active, all marks clear, the copy IDLE (R134). -/
def TableStore.copied (t : TableStore) : TableStore :=
  { t.setStaging t.activeBank with marks := .clear, copyInFlight := false }

/-- The completion of a bank copy in flight; with no copy in flight there is none to complete (R134, R136). -/
def completeCopy (s : State) : State := if s.tables.copyInFlight then { s with tables := s.tables.copied } else s

end Sys2Proof.Machine
end

