-- ==== Sys2Proof/Machine/Tracker.lean ====
section
/-! DEFINITION. The Cycle Tracker (02_the_cycle.md): segment arrivals, cycle opens and closes, the timer, link loss; and the Group
Controller's work at an open (R111, R113). -/

namespace Sys2Proof.Machine

/-! ### The Group Controller at an open -/

/-- Every TRIPPED group's hold-off drops by one if it is above 0 (R111). -/
def stepHoldoffs (s : State) : State :=
  { s with
    groups := Vector.ofFn (fun g : Grp =>
      let r := s.group g
      if r.state = .tripped then { r with holdoffLeft := r.holdoffLeft - 1 } else r) }

/-- Auto-rearm of the groups of a list in order, each that is TRIPPED, has auto_rearm yes and is ready (R113). -/
def autoRearmOver : List Grp → State → State
  | [], s => s
  | g :: rest, s =>
    autoRearmOver rest
      (if (s.group g).state = .tripped ∧ (s.groupEntry g).autoRearm = true ∧ failedCondition s g = none then rearmGroup .auto g s
       else s)

/-- The Group Controller's work at an open: stepping, then auto-rearm (R111, R113). -/
def groupsOpen (s : State) : State := autoRearmOver allGroups (stepHoldoffs s)

/-! ### The cycle open (R31) -/

/-- The cycle timer is started with the active cycle_timeout (R35). -/
def startTimer (s : State) : State := { s with tracker := { s.tracker with timer := some s.params.cycleTimeout } }

/-- The tracker's and the Checker's own changes at the open of cycle n by a segment of index i (R31, R49). -/
def beginCycle (n : CycleNo) (i : Nat) (s : State) : State :=
  { s with
    tracker :=
      { s.tracker with state := .opened, lastCycle := n, lastIndex := i, seen := clearMap, consecutiveLost := 0 }
    repeats := clearMap }

/-- A cycle open: the tracker's changes, the Table Store's work, the Group Controller's work, and the timer started with the
timeout then active (R31). -/
def openCycle (n : CycleNo) (i : Nat) (s : State) : State := startTimer (groupsOpen (tableStoreOpen n (beginCycle n i s)))

/-! ### The cycle close (R33, R34) -/

/-- How a cycle closes: complete by its last flag (R27), incomplete by an ahead arrival of this number and index (R28), or
incomplete by the timer (R35). -/
inductive CloseKind where
  | complete
  | byArrival (n : CycleNo) (i : Nat)
  | byTimer
  deriving DecidableEq, Repr

/-- The SEQ INCOMPLETE record of an incomplete close, before stage 1 (R33, R40). -/
def submitIncomplete (k : CloseKind) (s : State) : State :=
  match k with
  | .complete => s
  | .byArrival n i => submit s.stamp (.seq .incomplete none (some (n, i))) s
  | .byTimer => submit s.stamp (.seq .incomplete none none) s

/-- A FILL frame's place in the list: directly behind every frame that entered before it, but directly ahead of the SEG whose
arrival caused an incomplete close, which is the incomplete one (R28, R189). -/
def placeFill (k : CloseKind) (q : Queued) (l : List Queued) : List Queued :=
  match k with
  | .byArrival .. => l.takeWhile (·.complete) ++ q :: l.dropWhile (·.complete)
  | _ => l ++ [q]

/-- The closing SEG has been sent or discarded before its close names it, and the mark finds it nowhere (log 23). -/
def closingGone (s : State) : Bool := !s.forward.any (·.underway) && !s.txD.any (·.underway)

/-- The ending mark of a complete close with no FILL built, on the SEG that closed the cycle, queued or on the line; where it is gone,
slot owed is set as its end would have set it (R34, R192; log 23). -/
def markClosing (s : State) : State :=
  { s with
    forward := s.forward.map (fun q => { q with ending := q.ending || q.underway })
    txD := s.txD.map (fun f => { f with ending := f.ending || f.underway })
    slotOwed := s.slotOwed || closingGone s }

/-- The close names its ending frame where no FILL was placed: the closing SEG, or none, and then slot owed is set (R34, R192). -/
def nameEnding (k : CloseKind) (s : State) : State :=
  match k with
  | .complete => markClosing s
  | _ => { s with slotOwed := true }

/-- Stage 2 of a close, and the naming of the ending frame: in ACTIVE one FILL frame for the channels filled, placed with the
ending mark, or discarded where the reserved place is held (R33, R34, R96, R99). -/
def fillStage (k : CloseKind) (n : CycleNo) (s : State) : State :=
  let entries := fillEntries s n
  if s.tables.deviceMode = .bypass ∨ entries = [] then nameEnding k s
  else if s.forward.any (·.reserved) then
    nameEnding k { s with counters := { s.counters with forwardOverruns := saturate s.counters.forwardOverruns 1 } }
  else { s with forward := placeFill k ⟨.fill n entries, true, true, true, false⟩ s.forward }

/-- A cycle close: the record of an incomplete close, CLOSED and the timer restarted, then the three stages in order (R33). -/
def closeCycle (k : CloseKind) (s : State) : State :=
  let n := s.tracker.lastCycle
  let s₁ := submitIncomplete k s
  let s₂ := startTimer { s₁ with tracker := { s₁.tracker with state := .closed } }
  let s₃ := staleTrigger n s₂.tracker.seen s₂
  runPendingTest n (fillStage k n s₃)

/-! ### Segment arrivals (R24 to R30) -/

/-- The skip count of an ahead arrival (R29). -/
def skipCount (n last : CycleNo) : Nat := (n - last).toNat - 1

/-- An ahead arrival in CLOSED, of number n and index i: skipped cycles, the open, and a SEGGAP record for an index above 0 (R29).
Nothing comes between these parts (DESIGN CHOICE, log 24). -/
def openAhead (n : CycleNo) (i : Nat) (s : State) : State :=
  let last := s.tracker.lastCycle
  let k := skipCount n last
  let s₁ := if 0 < k then submit s.stamp (.seq .skip (some k) (some (n, i))) s else s
  let s₂ := { s₁ with tracker := { s₁.tracker with lostTotal := saturate s₁.tracker.lostTotal k } }
  let s₃ := staleRun k (last + 1) s₂
  let s₄ := openCycle n i s₃
  if i = 0 then s₄ else submit s₄.stamp (.seq .segGap none (some (n, i))) s₄

/-- A segment discarded with an SEQ record (R26, R30). -/
def discardWith (d : SeqDetail) (n : CycleNo) (i : Nat) (s : State) : State :=
  submit s.stamp (.seq d none (some (n, i))) s

/-- last_index after a segment of the open cycle is taken (R26). -/
def setIndex (i : Nat) (s : State) : State := { s with tracker := { s.tracker with lastIndex := i } }

/-- A segment of the cycle in progress, in OPEN (R26). The first component tells whether it is processed. -/
def arriveSame (n : CycleNo) (i : Nat) (s : State) : Bool × State :=
  if i = s.tracker.lastIndex + 1 then (true, setIndex i s)
  else if i ≤ s.tracker.lastIndex then (false, discardWith .segDup n i s)
  else (true, setIndex i (discardWith .segGap n i s))

/-- A segment in NOSYNC: index 0 synchronises, any other is turned away (R25). -/
def arriveUnsynced (n : CycleNo) (i : Nat) (s : State) : Bool × State :=
  if i = 0 then
    let s' := openCycle n 0 s
    (true, submit s'.stamp .linkRestored s')
  else (false, { s with counters := { s.counters with unsyncCount := saturate s.counters.unsyncCount 1 } })

/-- The tracker's verdict on a segment's arrival, and the state after the closes, skips, opens and records it causes (R24 to R30).
It is one act: that no command comes between its parts is the model's (DESIGN CHOICE, log 24). -/
def arrive (n : CycleNo) (i : Nat) (s : State) : Bool × State :=
  match s.tracker.state with
  | .nosync => arriveUnsynced n i s
  | .opened =>
    if n = s.tracker.lastCycle then arriveSame n i s
    else if ahead n s.tracker.lastCycle then (true, openAhead n i (closeCycle (.byArrival n i) s))
    else (false, discardWith .late n i s)
  | .closed =>
    if ahead n s.tracker.lastCycle then (true, openAhead n i s) else (false, discardWith .late n i s)

/-! ### Link loss and the timer (R35, R36, R39) -/

/-- The groups whose active entry a predicate picks, ascending. -/
def State.groupsWith (s : State) (p : GroupEntry → Bool) : List Grp := allGroups.filter (fun g => p (s.groupEntry g))

/-- Link loss from OPEN or CLOSED: LINK LOST, NOSYNC with the timer stopped, and a trip request for every link_bound group (R39,
R109). -/
def linkLoss (s : State) : State :=
  let s₁ := submit s.stamp (.linkLost s.tracker.consecutiveLost) s
  let s₂ := { s₁ with tracker := { s₁.tracker with state := .nosync, timer := none } }
  tripGroups .link (s₂.groupsWith (·.linkBound)) s₂

/-- A lost cycle: counted, its STALE evaluations made, and then the link ended at loss_limit or the timer restarted (R36). -/
def lostCycle (s : State) : State :=
  let n := s.tracker.lastCycle + 1
  let s₁ :=
    { s with
      tracker :=
        { s.tracker with
          lastCycle := n
          consecutiveLost := s.tracker.consecutiveLost + 1
          lostTotal := saturate s.tracker.lostTotal 1 } }
  let s₂ := staleTrigger n clearMap s₁
  if s₂.params.lossLimit ≤ s₂.tracker.consecutiveLost then linkLoss s₂ else startTimer s₂

/-- The timer runs out: nothing while it is stopped; in OPEN an incomplete close, in CLOSED a lost cycle (R35, R36). -/
def timerExpiry (s : State) : State :=
  if s.tracker.timer = none then s
  else
    match s.tracker.state with
    | .nosync => s
    | .opened => closeCycle .byTimer s
    | .closed => lostCycle s

end Sys2Proof.Machine
end

