-- ==== Sys2Proof/Machine/Wire.lean ====
section
/-! DEFINITION. Frames as bytes: the check word, the layouts of R196 and the encoding of results and records of R197, and the tests
a received frame must pass (R188). -/

namespace Sys2Proof.Machine

/-! ### Bytes -/

/-- A number in one byte. -/
def byte1 (n : Nat) : List Byte := [BitVec.ofNat 8 n]

/-- A number in two bytes, most significant first (R196). -/
def byte2 (n : Nat) : List Byte := [BitVec.ofNat 8 (n / 256), BitVec.ofNat 8 n]

/-- A number in three bytes, most significant first (R196). -/
def byte3 (n : Nat) : List Byte := [BitVec.ofNat 8 (n / 65536), BitVec.ofNat 8 (n / 256), BitVec.ofNat 8 n]

/-- A yes/no value: 1 for yes, 0 for no (R5, R181; log 10). -/
def yesNo (b : Bool) : List Byte := byte1 (if b then 1 else 0)

/-- An edited mark as a coded value of R18's order, set 0 and clear 1 (R197; log 10). -/
def markByte (b : Bool) : List Byte := byte1 (if b then 0 else 1)

/-- An optional field: a presence byte, then the field if it is present (R197). -/
def optional {α : Type} (f : α → List Byte) : Option α → List Byte
  | none => byte1 0
  | some a => byte1 1 ++ f a

/-- A list: a count byte, then its items (R197). -/
def counted {α : Type} (f : α → List Byte) (l : List α) : List Byte := byte1 l.length ++ l.flatMap f

/-- A number of two bytes read most significant first (R196). -/
def word2 (a b : Byte) : BitVec 16 := a ++ b

/-- A number of three bytes read most significant first (R196). -/
def word3 (a b c : Byte) : BitVec 24 := a ++ b ++ c

/-! ### The check word (R196) -/

/-- One bit is shifted out of the register, with the polynomial x^16 + x^15 + x^2 + 1 (R196). -/
def crcBit (r : BitVec 16) : BitVec 16 := if r.msb then (r <<< 1) ^^^ 0x8005#16 else r <<< 1

/-- One byte is fed in, most significant bit first (R196). -/
def crcByte (r : BitVec 16) (b : Byte) : BitVec 16 :=
  crcBit (crcBit (crcBit (crcBit (crcBit (crcBit (crcBit (crcBit (r ^^^ (b.setWidth 16 <<< 8)))))))))

/-- The check word over some bytes: the register starts at FFFFh and no inversion is made at the end (R196). -/
def checkWord (l : List Byte) : BitVec 16 := l.foldl crcByte 0xFFFF#16

/-- A frame of a kind with a payload: kind, length, payload, check word (R196). -/
def frameBytes (kind : Byte) (payload : List Byte) : List Byte :=
  let body := kind :: (byte2 payload.length ++ payload)
  body ++ byte2 (checkWord body).toNat

/-! ### Codes of coded values, numbered in their owning rule's order (R197) -/

def ChannelMode.code : ChannelMode → Nat
  | .off => 0
  | .monitor => 1
  | .guard => 2

def Reaction.code : Reaction → Nat
  | .hold => 0
  | .safe => 1
  | .mark => 2

def BankLetter.code : BankLetter → Nat
  | .a => 0
  | .b => 1

def DeviceMode.code : DeviceMode → Nat
  | .bypass => 0
  | .active => 1

def TrackerState.code : TrackerState → Nat
  | .nosync => 0
  | .opened => 1
  | .closed => 2

def ChannelState.code : ChannelState → Nat
  | .idle => 0
  | .clean => 1
  | .suspect => 2
  | .faulted => 3

def GroupState.code : GroupState → Nat
  | .armed => 0
  | .tripped => 1

def TripCause.code : TripCause → Nat
  | .channel => 0
  | .pin => 1
  | .link => 2
  | .command => 3

def SeqDetail.code : SeqDetail → Nat
  | .skip => 0
  | .late => 1
  | .segGap => 2
  | .segDup => 3
  | .incomplete => 4

def TestKind.code : TestKind → Nat
  | .limit => 0
  | .rate => 1
  | .qualify => 2
  | .fill => 3

def TestOutcome.code : TestOutcome → Nat
  | .none => 0
  | .pass => 1
  | .fail => 2
  | .aborted => 3

def TestDetail.code : TestDetail → Nat
  | .noBase => 0
  | .off => 1
  | .mode => 2

def ValidationCheck.code : ValidationCheck → Nat
  | .order => 0
  | .window => 1
  | .phase => 2
  | .group => 3

def ResetScope.code : ResetScope → Nat
  | .runtime => 0
  | .log => 1
  | .device => 2

def TripItem.code : TripItem → Nat
  | .tripped => 0
  | .restarted => 1

/-- A verdict of a history: 1 violating, 0 clean (R197). -/
def Verdict.code : Verdict → Nat
  | .violating => 1
  | .clean => 0

/-- The wire values of the status codes (R174). -/
def Status.code : Status → Nat
  | .ok => 0x00
  | .busy => 0x01
  | .pending => 0x02
  | .badArg => 0x03
  | .invalid => 0x04
  | .late => 0x05
  | .notReady => 0x06
  | .tripped => 0x07
  | .noSync => 0x08
  | .mode => 0x09
  | .unknown => 0x0A

/-- The group field of a channel entry: 0..7, or 255 for none (R5). -/
def groupCode : Option Grp → Nat
  | none => 255
  | some g => g.val

/-- A commit target as in the arguments of COMMIT (R179, R197). -/
def CommitTarget.bytes : CommitTarget → List Byte
  | .next => byte1 0
  | .atCycle n => byte1 1 ++ byte2 n.toNat

/-! ### Table entries in wire form (R5, R9, R12, R175) -/

/-- The twenty fields of a channel entry in field-number order and wire form (R18). -/
def ChannelEntry.bytes (e : ChannelEntry) : List Byte :=
  byte1 e.mode.code ++ byte1 e.period ++ byte1 e.phase ++ byte2 e.gain.toNat ++ byte3 e.offset.toNat ++
    byte3 e.lowLimit.toNat ++ byte3 e.highLimit.toNat ++ byte3 e.warnLow.toNat ++ byte3 e.warnHigh.toNat ++
    byte3 e.rateLimit ++ byte1 e.classes.toNat ++ yesNo e.satIsFault ++ byte1 e.window ++ byte1 e.threshold ++
    byte1 e.recovery ++ byte1 e.reaction.code ++ yesNo e.holdSuspect ++ yesNo e.trip ++ byte1 (groupCode e.group) ++
    byte3 e.safeValue.toNat

/-- The four fields of a group entry (R19). -/
def GroupEntry.bytes (e : GroupEntry) : List Byte :=
  yesNo e.autoRearm ++ byte1 e.holdoff ++ yesNo e.pinBound ++ yesNo e.linkBound

/-- The three fields of the cycle parameters record (R19). -/
def CycleParams.bytes (p : CycleParams) : List Byte := byte2 p.cycleTimeout ++ byte1 p.lossLimit ++ byte2 p.alertKinds.toNat

/-! ### Log records in their 14-byte form (R197) -/

/-- The fields f1 to f5 of a record, each absent or a number (R197). -/
structure RecordFields where
  f1 : Option Nat
  f2 : Option Nat
  f3 : Option Nat
  f4 : Option Nat
  f5 : Option Nat
  deriving DecidableEq, Repr

/-- The kind number of a record, in R142's order from FAULT 0 to MODE 9 (R197). -/
def RecordBody.kindCode : RecordBody → Nat
  | .fault .. => 0
  | .recover .. => 1
  | .warn .. => 2
  | .trip .. => 3
  | .rearm .. => 4
  | .linkLost .. => 5
  | .linkRestored => 5
  | .seq .. => 6
  | .dup .. => 7
  | .commit .. => 8
  | .mode .. => 9

/-- The fields of a record by its kind (R197's table). -/
def RecordBody.fields : RecordBody → RecordFields
  | .fault c k v g => ⟨some c.val, some k.toNat, v.map (·.toNat), g.map (·.val), none⟩
  | .recover c => ⟨some c.val, none, none, none, none⟩
  | .warn c v => ⟨some c.val, none, some v.toNat, none, none⟩
  | .trip g cause c => ⟨some g.val, some cause.code, none, c.map (·.val), none⟩
  | .rearm g how => ⟨some g.val, some (match how with | .auto => 0 | .command => 1), none, none, none⟩
  | .linkLost n => ⟨some 0, some n, none, none, none⟩
  | .linkRestored => ⟨some 1, none, none, none, none⟩
  | .seq d skip received =>
    ⟨some d.code, received.map (·.2), skip, none, received.map (fun p => p.1.toNat)⟩
  | .dup c => ⟨some c.val, none, none, none, none⟩
  | .commit n groups params => ⟨some n, some (groupFlags groups), none, some (if params then 1 else 0), none⟩
  | .mode o => ⟨some (match o with | .bypass => 0 | .refused => 1), none, none, none, none⟩

/-- The presence byte: bits 0..5 mark cycle, f1, f2, f3, f4 and f5 present (R197). -/
def presence (cycle : Option CycleNo) (f : RecordFields) : Nat :=
  flagAt cycle.isSome 0 + flagAt f.f1.isSome 1 + flagAt f.f2.isSome 2 + flagAt f.f3.isSome 3 + flagAt f.f4.isSome 4 +
    flagAt f.f5.isSome 5

/-- A record in its fixed 14-byte form; absent fields are zero (R197). -/
def LogRecord.bytes (r : LogRecord) : List Byte :=
  let f := r.body.fields
  byte2 r.sequence.toNat ++ byte1 r.body.kindCode ++ byte1 (presence r.cycle f) ++
    byte2 ((r.cycle.map (·.toNat)).getD 0) ++ byte1 (f.f1.getD 0) ++ byte1 (f.f2.getD 0) ++ byte3 (f.f3.getD 0) ++
    byte1 (f.f4.getD 0) ++ byte2 (f.f5.getD 0)

/-! ### Results (R197) -/

/-- A failed condition: MEMBER with its channel, PIN, LINK, HOLDOFF with holdoff_left (R112, R197). -/
def FailedCondition.bytes : FailedCondition → List Byte
  | .member c => byte1 0 ++ byte1 c.val
  | .pin => byte1 1
  | .link => byte1 2
  | .holdoff n => byte1 3 ++ byte1 n

/-- The readiness of GROUP-STATE: READY, or the failed condition (R121, R197; log 11). -/
def Readiness.bytes : Readiness → List Byte
  | .ready => byte1 0
  | .failed why => byte1 1 ++ why.bytes

/-- The result of REARM for one group: already ARMED 0, rearmed 1, in R114's order, or the failed condition (R114, R197; log 11). -/
def RearmItem.bytes : RearmItem → List Byte
  | .alreadyArmed => byte1 0
  | .rearmed => byte1 1
  | .notReady why => why.bytes

/-- The status an item of REARM ALL carries (R115). -/
def RearmItem.status : RearmItem → Status
  | .alreadyArmed => .ok
  | .rearmed => .ok
  | .notReady _ => .notReady

/-- The alternative of an item of REARM ALL: rearmed 0, already ARMED 1, in R115's order, which is not R114's, or the failed condition
(R115, R197; DEDUCED, log 11). -/
def RearmItem.allBytes : RearmItem → List Byte
  | .rearmed => byte1 0
  | .alreadyArmed => byte1 1
  | .notReady why => why.bytes

/-- An item of REARM ALL: a status byte followed by its alternative (R197; log 11). -/
def RearmItem.itemBytes (i : RearmItem) : List Byte := byte1 i.status.code ++ i.allBytes

/-- An expectation in the form TEST carries it (R181). -/
def Expectation.bytes : Expectation → List Byte
  | .limit high low => byte1 (flagAt high 0 + flagAt low 1)
  | .rate raised => yesNo raised
  | .qualify n => byte1 n
  | .fill v => byte3 v.toNat

/-- An observed field, by kind: a set, a count, or a value with its quality (R157, R197). The kind before it tells which, so no code
byte does (DEDUCED, log 25). -/
def Observed.bytes : Observed → List Byte
  | .classes k => byte1 k.toNat
  | .count n => byte1 n
  | .value v q => byte3 v.toNat ++ [q.code]

/-- The pending part of TEST-RESULT: IDLE, or PENDING with the test's kind, channel, value and expectation (R167). -/
def pendingTestBytes : Option PendingTest → List Byte
  | none => byte1 0
  | some t => byte1 1 ++ byte1 t.expectation.kind.code ++ byte1 t.channel.val ++ byte3 t.value.toNat ++ t.expectation.bytes

/-- The result of TEST-RESULT (R167). A presence byte before the kind and another before the channel, which R167 lists in one row, are
the model's (DESIGN CHOICE, log 25). -/
def TestRecord.bytes (t : TestRecord) : List Byte :=
  pendingTestBytes t.pending ++ byte1 t.last.outcome.code ++ optional (fun k : TestKind => byte1 k.code) t.last.kind ++
    optional (fun c : Chan => byte1 c.val) t.last.channel ++ optional Observed.bytes t.last.observed ++
    optional (fun d : TestDetail => byte1 d.code) t.last.detail ++ optional (fun n : CycleNo => byte2 n.toNat) t.last.cycle

/-- The result of CHANNEL-STATE (R83). -/
def ChannelRecord.bytes (r : ChannelRecord) : List Byte :=
  byte1 r.state.code ++ counted (fun v : Verdict => byte1 v.code) r.history ++ byte1 r.violations ++ byte1 r.recovery ++
    optional (fun v : Sample => byte3 v.toNat) r.lastGood ++ optional (fun v : Sample => byte3 v.toNat) r.rateBase ++
    yesNo r.inWarn ++ optional (fun k : ClassSet => byte1 k.toNat) r.faultClasses ++
    optional (fun n : CycleNo => byte2 n.toNat) r.faultCycle

/-- The result of GROUP-STATE but for the readiness (R121). -/
def GroupRecord.bytes (r : GroupRecord) : List Byte :=
  byte1 r.state.code ++ optional (fun c : TripCause => byte1 c.code) r.cause ++
    optional (fun c : Chan => byte1 c.val) r.causeChannel ++ optional (fun n : CycleNo => byte2 n.toNat) r.tripCycle ++
    byte1 r.holdoffLeft

/-- The eight counters in R178's order, two bytes each (R197). -/
def Counters.bytes (c : Counters) : List Byte :=
  byte2 c.uCheckErrors ++ byte2 c.uFormatErrors ++ byte2 c.dCheckErrors ++ byte2 c.dFormatErrors ++ byte2 c.unsyncCount ++
    byte2 c.forwardOverruns ++ byte2 c.returnOverruns ++ byte2 c.droppedCommands

/-- The commit field of STATUS: NONE, or PENDING with its target (R197). -/
def commitFieldBytes : Option CommitTarget → List Byte
  | none => byte1 0
  | some t => byte1 1 ++ t.bytes

/-- The test field of STATUS: IDLE, or PENDING with kind and channel (R177). -/
def testFieldBytes : Option (TestKind × Chan) → List Byte
  | none => byte1 0
  | some p => byte1 1 ++ byte1 p.1.code ++ byte1 p.2.val

/-- The result of STATUS in R177's order. -/
def StatusSnapshot.bytes (s : StatusSnapshot) : List Byte :=
  byte1 s.deviceMode.code ++ byte1 s.trackerState.code ++ byte2 s.lastCycle.toNat ++ byte1 s.consecutiveLost ++
    byte2 s.lostTotal ++ commitFieldBytes s.commit ++ byte1 (if s.copyInFlight then 1 else 0) ++
    byte1 (if s.modeChange then 1 else 0) ++ s.groups.toList.flatMap (fun g => byte1 g.code) ++ byte1 s.logCount ++
    byte2 s.lost ++ testFieldBytes s.test ++ s.counters.bytes

/-- A result as bytes: its fields in the order its owning rule lists them (R197). The widths of IDENTIFY's vendor code, part code and
revision, two bytes, two and one, are the model's (DESIGN CHOICE, log 20). -/
def Result.bytes : Result → List Byte
  | .empty => []
  | .identity vendor part revision node =>
    byte2 vendor.toNat ++ byte2 part.toNat ++ byte1 revision ++ byte1 node.toNat
  | .snapshot s => s.bytes
  | .channelEntry bank e m => byte1 bank.code ++ e.bytes ++ optional markByte m
  | .groupEntry bank e m => byte1 bank.code ++ e.bytes ++ optional markByte m
  | .cycleParams bank p m => byte1 bank.code ++ p.bytes ++ optional markByte m
  | .field n => byte1 n
  | .pendingCommit t => byte1 0 ++ t.bytes
  | .pendingMode => byte1 1
  | .invalid c k => byte1 c.val ++ byte1 k.code
  | .late n => byte2 n.toNat
  | .target t => t.bytes
  | .cancelled t => optional CommitTarget.bytes t
  | .trippedGroups l => counted (fun g : Grp => byte1 g.val) l
  | .channelRecord r => r.bytes
  | .groupRecord r why => r.bytes ++ optional Readiness.bytes why
  | .tripItems l => counted (fun i : TripItem => byte1 i.code) l
  | .rearmItem i => i.bytes
  | .rearmItems l => l.flatMap RearmItem.itemBytes
  | .logRecords count lost records => byte1 count ++ byte2 lost ++ counted LogRecord.bytes records
  | .logAcked removed count => byte1 removed ++ byte1 count
  | .logCleared removed lost => byte1 removed ++ byte2 lost
  | .busyTest k c => byte1 k.code ++ byte1 c.val
  | .offChannel c => byte1 c.val
  | .testPending => byte1 0
  | .testRan => byte1 1
  | .testRecord t => t.bytes
  | .scope s => byte1 s.code

/-! ### Frames as they leave (R193, R196) -/

/-- An entry of a SEG or FILL frame: channel, value, quality (R196). -/
def SampleEntry.bytes (x : SampleEntry) : List Byte := [x.channel] ++ byte3 x.value.toNat ++ [x.quality]

/-- The payload of a SEG frame (R196). -/
def Segment.payload (g : Segment) : List Byte :=
  byte2 g.cycle.toNat ++ [g.segByte] ++ byte1 g.entries.length ++ g.entries.flatMap SampleEntry.bytes

/-- The payload of a FILL frame (R196). -/
def fillPayload (cycle : CycleNo) (entries : List SampleEntry) : List Byte :=
  byte2 cycle.toNat ++ byte1 entries.length ++ entries.flatMap SampleEntry.bytes

/-- The payload of a REPLY frame (R196). -/
def Reply.payload (r : Reply) : List Byte :=
  byte1 r.source.toNat ++ [r.tag, r.code] ++ byte1 r.status.code ++ r.result.bytes

/-- The payload of an ALERT frame: absent fields are zero bytes with their flag clear (R196). -/
def Alert.payload (a : Alert) : List Byte :=
  byte1 a.source.toNat ++ byte1 (flagAt a.newest.isSome 0 + flagAt a.record.isSome 1) ++
    byte2 ((a.newest.map (·.toNat)).getD 0) ++ byte1 a.logCount ++ byte2 a.lost ++
    ((a.record.map LogRecord.bytes).getD (List.replicate 14 0))

/-- The bytes of a frame between its START and its END, check word included (R193, R196). -/
def Frame.bytes : Frame → List Byte
  | .seg g => frameBytes 0x01 g.payload
  | .fill n l => frameBytes 0x02 (fillPayload n l)
  | .reply r => frameBytes 0x04 r.payload
  | .alert a => frameBytes 0x05 a.payload
  | .passed l => l

/-- The patterns of a frame on its line (R186, R193). No step reads them. -/
def Frame.line (d : Disparity) (f : Frame) : List Pattern := lineOf d f.bytes

/-- The time in ns a frame occupies its line, one symbol per 100 ns with its START and END (R193). No step reads it (log 2). -/
def Frame.lineTime (f : Frame) : Nat := (f.bytes.length + 2) * 100

/-! ### Testing a received frame (R188) -/

/-- What a receiver makes of a frame (R188). -/
inductive Reception where
  | badCheck
  | badFormat
  | good (kind : Byte) (payload : List Byte)
  deriving DecidableEq, Repr

/-- The frame's last two bytes are the check word of the bytes before them (R188, R196). A frame of fewer than three bytes, which
holds no kind byte before a check word, fails (log 8). -/
def checkPasses (l : List Byte) : Bool :=
  decide (3 ≤ l.length) && (byte2 (checkWord (l.take (l.length - 2))).toNat == l.drop (l.length - 2))

/-- The payload has the form of its kind (R188, R196): counts within the kind's limit that give the length, and an ALERT of 21
bytes. -/
def payloadForm (kind : Byte) (p : List Byte) : Bool :=
  if kind = 0x01 then
    match p with
    | _ :: _ :: _ :: n :: _ => decide (n.toNat ≤ 48) && decide (p.length = 4 + 5 * n.toNat)
    | _ => false
  else if kind = 0x02 then
    match p with
    | _ :: _ :: n :: _ => decide (1 ≤ n.toNat) && decide (n.toNat ≤ 96) && decide (p.length = 3 + 5 * n.toNat)
    | _ => false
  else if kind = 0x03 then
    match p with
    | _ :: _ :: _ :: a :: _ => decide (a.toNat ≤ 60) && decide (p.length = 4 + a.toNat)
    | _ => false
  else if kind = 0x05 then decide (p.length = 21)
  else true

/-- The format test of a frame that passed the check (R188). -/
def formatTest (l : List Byte) : Reception :=
  match l with
  | kind :: h :: k :: rest =>
    let length := (word2 h k).toNat
    let payload := rest.take (rest.length - 2)
    if 4 ≤ length ∧ length ≤ 508 ∧ l.length = length + 5 ∧ payloadForm kind payload = true then .good kind payload
    else .badFormat
  | _ => .badFormat

/-- The tests of a frame in their order (R188). -/
def receive (f : Arriving) (ending : FrameEnd) : Reception :=
  if ending = .secondStart ∨ f.violated = true ∨ checkPasses f.bytes = false then .badCheck else formatTest f.bytes

/-- The entries of a SEG payload after its count byte (R196). -/
def readEntries : Nat → List Byte → List SampleEntry
  | n + 1, c :: x :: y :: z :: q :: rest => ⟨c, word3 x y z, q⟩ :: readEntries n rest
  | _, _ => []

/-- The SEG frame of a good SEG payload (R196). -/
def readSegment (p : List Byte) : Segment :=
  match p with
  | a :: b :: sb :: n :: rest => ⟨word2 a b, sb, readEntries n.toNat rest⟩
  | _ => ⟨0, 0, []⟩

/-- The segment index: bits 3..0 of the segment byte (R196). -/
def Segment.index (g : Segment) : Nat := g.segByte.toNat % 16

/-- The last flag: bit 7 of the segment byte (R196). -/
def Segment.last (g : Segment) : Bool := g.segByte.msb

end Sys2Proof.Machine
end

