-- ==== Sys2Proof/Machine/Link.lean ====
section
/-! DEFINITION. The link ports: the queues, the Port D Transmit Arbiter, the port U transmitter, and a port coming UP or going DOWN
(11_link_ports_and_frame_formats.md). -/

namespace Sys2Proof.Machine

/-! ### The Arbiter (R192) -/

/-- The ALERT frame that begins transmission: the slot's fields, and the log count and lost of that moment (R153). -/
def alertFrame (w : WaitingAlert) (s : State) : Alert := ⟨s.nodeAddr, w.newest, s.log.records.length, s.log.lost, w.record⟩

/-- The Outbound Queue holds a reply or an ALERT (R191). -/
def State.outbound (s : State) : Bool := s.alertSlot.isSome || !s.replies.isEmpty

/-- The head of the Forward Queue is ready: it is complete (R192). -/
def State.headReady (s : State) : Bool :=
  match s.forward with
  | [] => false
  | q :: _ => q.complete

/-- The frame taken from the Outbound Queue, the ALERT if one waits, else the oldest reply; slot owed is clear after (R192). -/
def takeOutbound (s : State) : Option (OnLine × State) :=
  match s.alertSlot with
  | some w => some (⟨.alert (alertFrame w s), false, false⟩, { s with alertSlot := none, slotOwed := false })
  | none =>
    match s.replies with
    | r :: rest => some (⟨.reply r, false, false⟩, { s with replies := rest, slotOwed := false })
    | [] => none

/-- The head taken from the Forward Queue; slot owed is unchanged (R192). -/
def takeForward (s : State) : Option (OnLine × State) :=
  match s.forward with
  | q :: rest => some (⟨q.frame, q.ending, q.underway⟩, { s with forward := rest })
  | [] => none

/-- The Arbiter's choice, with the state after the frame has left its queue; none when no frame is ready (R192's table). -/
def arbiterChoice (s : State) : Option (OnLine × State) :=
  if s.outbound && (s.slotOwed || !s.headReady) then takeOutbound s
  else if s.headReady then takeForward s
  else none

/-- Choices are made while the transmitter is free. While port D is UP the chosen frame begins transmission; while it is DOWN it is
discarded at once, a discarded ending mark setting slot owed, and the next choice is made (R192, R194). -/
def arbitrate : Nat → State → State
  | 0, s => s
  | k + 1, s =>
    if s.txD.isSome then s
    else
      match arbiterChoice s with
      | none => s
      | some (f, s') =>
        if s.upD then { s' with txD := some f } else arbitrate k { s' with slotOwed := s'.slotOwed || f.ending }

/-- More choices than there are frames awaiting port D. -/
def choicesLeft (s : State) : Nat := s.forward.length + s.replies.length + 2

/-- The transmit side of port U: a free transmitter takes the head of the Return Queue, and while port U is DOWN every frame that
reaches the head is discarded (R190, R195). -/
def returnSend (s : State) : State :=
  if s.upU then
    match s.txU, s.ret with
    | none, l :: rest => { s with txU := some l, ret := rest }
    | _, _ => s
  else { s with ret := [] }

/-- What the transmitters do at the end of each whole act of the part (R190, R192; log 5). -/
def settle (s : State) : State := returnSend (arbitrate (choicesLeft s) s)

/-! ### The ends of transmissions (R192, R193) -/

/-- The frame on a port's line has sent its END: the transmitter is free, and an ending mark sets slot owed (R192, R193). -/
def transmitEnd (p : Port) (s : State) : State :=
  match p with
  | .u => { s with txU := none }
  | .d =>
    match s.txD with
    | none => s
    | some f => { s with txD := none, slotOwed := s.slotOwed || f.ending }

/-! ### The queues (R189, R190) -/

/-- A return frame joins the Return Queue, or is discarded and counted when 4 are held (R190). -/
def enterReturn (l : List Byte) (s : State) : State :=
  if s.ret.length < Config.returnPlaces then { s with ret := s.ret ++ [l] }
  else { s with counters := { s.counters with returnOverruns := saturate s.counters.returnOverruns 1 } }

/-- The ordinary places taken in the Forward Queue (R189). -/
def placesTaken (l : List Queued) : Nat := l.countP (fun q => !q.reserved)

/-- The Forward Queue has an ordinary place free (R189). -/
def State.forwardRoom (s : State) : Bool := decide (placesTaken s.forward < Config.forwardPlaces)

/-- A frame from port U that is no SEG joins the tail of the Forward Queue, complete (R189). -/
def enterForward (f : Frame) (s : State) : State := { s with forward := s.forward ++ [⟨f, false, true, false, false⟩] }

/-- A SEG from port U joins the tail of the Forward Queue, incomplete, for the tracker to take (R23, R189). -/
def enterSegment (g : Segment) (s : State) : State := { s with forward := s.forward ++ [⟨.seg g, false, false, false, true⟩] }

/-- A frame from port U finds all 4 places taken (R189). -/
def forwardOverrun (s : State) : State :=
  { s with counters := { s.counters with forwardOverruns := saturate s.counters.forwardOverruns 1 } }

/-- The incomplete SEG is removed from the Forward Queue: the tracker has discarded it in ACTIVE (R23, R189). -/
def dropIncomplete (s : State) : State := { s with forward := s.forward.filter (·.complete) }

/-- The incomplete SEG becomes complete (R189). -/
def completeFrames (s : State) : State := { s with forward := s.forward.map (fun q => { q with complete := true }) }

/-- The tracker has done with the SEG it was taking (R41). -/
def segmentOver (s : State) : State :=
  { s with
    forward := s.forward.map (fun q => { q with underway := false })
    txD := s.txD.map (fun f => { f with underway := false }) }

/-- The entries of the incomplete SEG as they stand (R50, R65, R86). -/
def rewriteEntries (g : Segment) (entries : List SampleEntry) (s : State) : State :=
  { s with
    forward := s.forward.map (fun q => if q.complete then q else { q with frame := .seg { g with entries := entries } }) }

/-! ### Link states (R187, R194, R195) -/

/-- The link state of a port (R187). -/
def State.up (s : State) : Port → Bool
  | .u => s.upU
  | .d => s.upD

/-- What a port's receiver keeps (R187, R188). -/
def State.rx (s : State) : Port → Receiver
  | .u => s.rxU
  | .d => s.rxD

def State.setRx (s : State) (p : Port) (r : Receiver) : State :=
  match p with
  | .u => { s with rxU := r }
  | .d => { s with rxD := r }

/-- A port comes UP (R187). -/
def portUpOp (p : Port) (s : State) : State :=
  match p with
  | .u => { s with upU := true }
  | .d => { s with upD := true }

/-- Port D goes DOWN: the frame on its line is cut off, the reply list and the alert slot are emptied, slot owed is cleared, and a frame
being received is discarded (R187, R194). A port already DOWN does not go DOWN. -/
def portDDownOp (s : State) : State :=
  if s.upD then
    { s with upD := false, rxD := .quiet, txD := none, replies := [], alertSlot := none, slotOwed := false }
  else s

/-- Port U goes DOWN: the frame on its line is cut off, one being received is discarded, and the tracker loses the link when it is OPEN
or CLOSED (R38, R195). A port already DOWN does not go DOWN. -/
def portUDownOp (s : State) : State :=
  if s.upU then
    let s' := { s with upU := false, rxU := .quiet, txU := none }
    if s.tracker.state = .nosync then s' else linkLoss s'
  else s

/-- A port's receiver takes symbols from its line up to the first event, and `on` is what that event brings about; the symbols behind
it belong to the port's next row (R187, R188; log 7). -/
def takeLine (p : Port) (on : RxEvent → State → State) (l : List Symbol) (s : State) : State :=
  match (s.rx p).run (s.up p) l with
  | (r, none) => s.setRx p r
  | (r, some (e, _)) => on e (s.setRx p r)

/-! ### Counters of a receiver (R188) -/

/-- A frame failed the check on a port (R188). -/
def countCheckError (p : Port) (s : State) : State :=
  match p with
  | .u => { s with counters := { s.counters with uCheckErrors := saturate s.counters.uCheckErrors 1 } }
  | .d => { s with counters := { s.counters with dCheckErrors := saturate s.counters.dCheckErrors 1 } }

/-- A frame failed the format on a port (R188). -/
def countFormatError (p : Port) (s : State) : State :=
  match p with
  | .u => { s with counters := { s.counters with uFormatErrors := saturate s.counters.uFormatErrors 1 } }
  | .d => { s with counters := { s.counters with dFormatErrors := saturate s.counters.dFormatErrors 1 } }

/-! ### The external trip line (R108) -/

/-- A sample of low after a sample of high: a PIN trip request for every pin_bound group, ascending. A low sample after a low one is
no fall (R108). -/
def tripLineFall (s : State) : State :=
  if s.tripHigh then
    tripGroups .pin (s.groupsWith (·.pinBound)) { s with tripHigh := false }
  else s

/-- A sample of high: the level is kept, which lifts the bar on rearm (R108). -/
def tripLineRise (s : State) : State := { s with tripHigh := true }

/-! ### Taking in commands (R168 to R170) -/

/-- A command offered to the FIFO joins its tail, or is discarded and counted when 4 are held (R169, R170). -/
def offerCommand (c : Command) (s : State) : State :=
  if s.cmdFifo.length < Config.fifoPlaces then { s with cmdFifo := s.cmdFifo ++ [c] }
  else { s with counters := { s.counters with droppedCommands := saturate s.counters.droppedCommands 1 } }

/-- The codes a broadcast is admitted with: COMMIT, CANCEL, BYPASS, TRIP, REARM and RESET (R170). -/
def broadcastAdmitted (code : Byte) : Bool :=
  code == 0x20 || code == 0x21 || code == 0x22 || code == 0x32 || code == 0x33 || code == 0x60

/-- A broadcast command at this node: offered by its code, or discarded for the node and counted (R170). -/
def offerBroadcast (c : Command) (s : State) : State :=
  if broadcastAdmitted c.code then offerCommand c s
  else { s with counters := { s.counters with droppedCommands := saturate s.counters.droppedCommands 1 } }

/-- A good CMD frame on port D is sorted by its destination byte; `whole` is the frame as received (R169, R170). -/
def sortCommand (payload whole : List Byte) (s : State) : State :=
  match payload with
  | dest :: tag :: code :: _ :: args =>
    if dest = 63 then offerBroadcast ⟨true, tag, code, args⟩ (enterReturn whole s)
    else if dest = s.nodeAddr.setWidth 8 then offerCommand ⟨false, tag, code, args⟩ s
    else enterReturn whole s
  | _ => s

/-- A frame received on port D, which hands a good one on by its kind (R188). -/
def receiveD (f : Arriving) (ending : FrameEnd) (s : State) : State :=
  match receive f ending with
  | .badCheck => countCheckError .d s
  | .badFormat => countFormatError .d s
  | .good kind payload => if kind = 0x03 then sortCommand payload f.bytes s else enterReturn f.bytes s

/-- What an event of port D's receiver brings about (R187, R188, R194). -/
def lineEventD (e : RxEvent) (s : State) : State :=
  match e with
  | .comesUp => portUpOp .d s
  | .goesDown => portDDownOp s
  | .frame f ending => receiveD f ending s
  | .overlong => countFormatError .d s

/-- Port D's receiver takes patterns from its line (R186 to R188). -/
def takeLineD (line : List Pattern) (s : State) : State := takeLine .d lineEventD (line.map symbolOf) s

/-- Port D's receiver meets a cause, and goes DOWN where it takes it there (R187, R194; log 4). -/
def causeD (c : DownCause) (s : State) : State :=
  match c with
  | .lossOfSignal => portDDownOp s
  | .violations line => takeLineD line s

end Sys2Proof.Machine
end

