-- ==== Sys2Proof/Machine/Operands.lean ====
section
/-! DEFINITION. The operand forms of the commands: their argument bytes (R175), field lists (R16) and the range tests and writes of
single fields (R17). -/

namespace Sys2Proof.Machine

/-! ### Numbers -/

/-- Bytes as a number, most significant first (R196). -/
def bigEndian (l : List Byte) : Nat := l.foldl (fun n b => n * 256 + b.toNat) 0

/-- A channel number 0..95 (R16). -/
def chanOf (n : Nat) : Option Chan := if h : n < 96 then some ⟨n, h⟩ else none

/-- A group number 0..7 (R16). -/
def grpOf (n : Nat) : Option Grp := if h : n < 8 then some ⟨n, h⟩ else none

/-- The bank argument: 0 ACTIVE, 1 STAGING (R179). -/
def roleOf (b : Byte) : Option BankRole := if b = 0 then some .active else if b = 1 then some .staging else none

/-- The target of COMMIT: kind NEXT alone, or kind AT with a cycle number (R179). -/
def targetOf (args : List Byte) : Option CommitTarget :=
  match args with
  | [k] => if k = 0 then some .next else none
  | [k, a, b] => if k = 1 then some (.atCycle (word2 a b)) else none
  | _ => none

/-- The groups TRIP and REARM name: one, or all eight for 255 (R110, R114, R180). -/
inductive GroupArg where
  | one (g : Grp)
  | all
  deriving DecidableEq, Repr

def groupArgOf (args : List Byte) : Option GroupArg :=
  match args with
  | [b] => if b = 255 then some .all else (grpOf b.toNat).map .one
  | _ => none

/-- The groups an argument names, ascending. -/
def GroupArg.groups : GroupArg → List Grp
  | .one g => [g]
  | .all => allGroups

/-- An expectation of TEST, in its kind's form (R158, R181). -/
def expectationOf (kind : Byte) (l : List Byte) : Option Expectation :=
  match l with
  | [b] =>
    if kind = 0 then (if b.toNat < 4 then some (.limit (b.toNat.testBit 0) (b.toNat.testBit 1)) else none)
    else if kind = 1 then (if b = 0 then some (.rate false) else if b = 1 then some (.rate true) else none)
    else if kind = 2 then (if 1 ≤ b.toNat ∧ b.toNat ≤ 16 then some (.qualify b.toNat) else none)
    else none
  | [a, b, c] => if kind = 3 then some (.fill (word3 a b c)) else none
  | _ => none

/-- The arguments of TEST: kind, channel, test value, expectation (R158 step 1, R181). -/
def testOf (args : List Byte) : Option PendingTest :=
  match args with
  | k :: c :: x :: y :: z :: l =>
    match chanOf c.toNat, expectationOf k l with
    | some c', some e => some ⟨e, c', word3 x y z⟩
    | _, _ => none
  | _ => none

/-- The argument of TEST-RESULT: 0 no, 1 yes (R167, R181). -/
def yesNoOf (args : List Byte) : Option Bool :=
  match args with
  | [b] => if b = 0 then some false else if b = 1 then some true else none
  | _ => none

/-- The scope of RESET (R182). -/
def scopeOf (args : List Byte) : Option ResetScope :=
  match args with
  | [b] => if b = 0 then some .runtime else if b = 1 then some .log else if b = 2 then some .device else none
  | _ => none

/-! ### Field lists (R16, R175) -/

/-- An item of a field list: the field's number and its value at the field's width. -/
structure Item where
  number : Nat
  value : Nat
  deriving DecidableEq, Repr

/-- A field list as read: its items in order, and the field number that ended the reading because it names no field. -/
structure FieldList where
  items : List Item
  unknown : Option Nat
  deriving DecidableEq, Repr

/-- The width in bytes of a channel entry's field (R175); none where the number names no field. -/
def channelWidth (n : Nat) : Option Nat :=
  if n = 4 then some 2
  else if n = 5 ∨ n = 6 ∨ n = 7 ∨ n = 8 ∨ n = 9 ∨ n = 10 ∨ n = 20 then some 3
  else if 1 ≤ n ∧ n ≤ 20 then some 1
  else none

/-- The width of a group entry's field (R175). -/
def groupWidth (n : Nat) : Option Nat := if 1 ≤ n ∧ n ≤ 4 then some 1 else none

/-- The width of a field of the cycle parameters record (R175). -/
def cycleWidth (n : Nat) : Option Nat := if n = 1 ∨ n = 3 then some 2 else if n = 2 then some 1 else none

/-- The reading of a field list, item by item; none when an item is not whole (R175). The first number is more than the items there
can be. -/
def readItems (width : Nat → Option Nat) : Nat → List Byte → Option FieldList
  | 0, _ => none
  | _ + 1, [] => some ⟨[], none⟩
  | k + 1, b :: rest =>
    match width b.toNat with
    | none => some ⟨[], some b.toNat⟩
    | some w =>
      if rest.length < w then none
      else (readItems width k (rest.drop w)).map fun l => { l with items := ⟨b.toNat, bigEndian (rest.take w)⟩ :: l.items }

/-- The items of the list, one that ended the reading included (R16 step 1; log 13). -/
def FieldList.length (l : FieldList) : Nat := l.items.length + (if l.unknown.isSome then 1 else 0)

/-- A well-formed field list: each item whole, no field number twice, no more items than the entry may take (R16 step 1). -/
def fieldListOf (width : Nat → Option Nat) (limit : Nat) (args : List Byte) : Option FieldList :=
  match readItems width (args.length + 1) args with
  | none => none
  | some l => if (l.items.map Item.number).Nodup ∧ l.length ≤ limit then some l else none

/-- The first refused item's field number, in list order: a value out of its range, or the number that names no field (R16 step 4,
R175). -/
def firstRefused (inRange : Nat → Nat → Bool) (l : FieldList) : Option Nat :=
  match l.items.find? (fun i => !inRange i.number i.value) with
  | some i => some i.number
  | none => l.unknown

/-! ### Single fields: the range tests of R17 and the writes -/

/-- The range test of a channel entry's field, on its wire value (R17). -/
def channelInRange (n v : Nat) : Bool :=
  if n = 1 ∨ n = 16 then decide (v ≤ 2)
  else if n = 2 then v == 1 || v == 2 || v == 4 || v == 8 || v == 16
  else if n = 3 then decide (v ≤ 15)
  else if n = 10 then decide (v ≤ 8388607)
  else if n = 11 then decide (v < 64)
  else if n = 12 ∨ n = 17 ∨ n = 18 then decide (v ≤ 1)
  else if n = 13 ∨ n = 14 then decide (1 ≤ v ∧ v ≤ 16)
  else if n = 15 then decide (1 ≤ v)
  else if n = 19 then decide (v ≤ 7 ∨ v = 255)
  else true

/-- The range test of a group entry's field (R17). -/
def groupInRange (n v : Nat) : Bool := if n = 2 then true else decide (v ≤ 1)

/-- The range test of a field of the cycle parameters record (R17). -/
def cycleInRange (n v : Nat) : Bool :=
  if n = 1 then decide (10 ≤ v) else if n = 2 then decide (1 ≤ v ∧ v ≤ 16) else decide (v < 1024)

def modeOf (v : Nat) : ChannelMode := if v = 1 then .monitor else if v = 2 then .guard else .off

def reactionOf (v : Nat) : Reaction := if v = 1 then .safe else if v = 2 then .mark else .hold

/-- A channel entry with one field at a wire value (R5, R16). -/
def writeChannelField (e : ChannelEntry) (i : Item) : ChannelEntry :=
  match i.number with
  | 1 => { e with mode := modeOf i.value }
  | 2 => { e with period := i.value }
  | 3 => { e with phase := i.value }
  | 4 => { e with gain := BitVec.ofNat 16 i.value }
  | 5 => { e with offset := BitVec.ofNat 24 i.value }
  | 6 => { e with lowLimit := BitVec.ofNat 24 i.value }
  | 7 => { e with highLimit := BitVec.ofNat 24 i.value }
  | 8 => { e with warnLow := BitVec.ofNat 24 i.value }
  | 9 => { e with warnHigh := BitVec.ofNat 24 i.value }
  | 10 => { e with rateLimit := i.value }
  | 11 => { e with classes := .ofNat i.value }
  | 12 => { e with satIsFault := i.value == 1 }
  | 13 => { e with window := i.value }
  | 14 => { e with threshold := i.value }
  | 15 => { e with recovery := i.value }
  | 16 => { e with reaction := reactionOf i.value }
  | 17 => { e with holdSuspect := i.value == 1 }
  | 18 => { e with trip := i.value == 1 }
  | 19 => { e with group := grpOf i.value }
  | 20 => { e with safeValue := BitVec.ofNat 24 i.value }
  | _ => e

/-- A group entry with one field at a wire value (R9, R16). -/
def writeGroupField (e : GroupEntry) (i : Item) : GroupEntry :=
  match i.number with
  | 1 => { e with autoRearm := i.value == 1 }
  | 2 => { e with holdoff := i.value }
  | 3 => { e with pinBound := i.value == 1 }
  | 4 => { e with linkBound := i.value == 1 }
  | _ => e

/-- The cycle parameters record with one field at a wire value (R12, R16). -/
def writeCycleField (p : CycleParams) (i : Item) : CycleParams :=
  match i.number with
  | 1 => { p with cycleTimeout := i.value }
  | 2 => { p with lossLimit := i.value }
  | 3 => { p with alertKinds := .ofNat i.value }
  | _ => p

end Sys2Proof.Machine
end

