-- ==== Sys2Proof/Machine/Commands.lean ====
section
/-! DEFINITION. What each management command does when the Executor takes it (10_management_commands.md and the chapters that own the
commands): from the argument bytes and the state, the state after, the status and the result. -/

namespace Sys2Proof.Machine

/-- What the carrying out of a command leaves: the state, the status and the result of its reply (R171, R172). -/
structure Answer where
  state : State
  status : Status
  result : Result
  deriving DecidableEq, Repr

/-- A refusal: nothing changes (R174). -/
def refuse (s : State) (status : Status) (result : Result := .empty) : Answer := ⟨s, status, result⟩

/-! ### Identification and status -/

/-- IDENTIFY (R176). -/
def runIdentify (args : List Byte) (s : State) : Answer :=
  if args ≠ [] then refuse s .badArg else ⟨s, .ok, .identity 0x0D52 0x0096 1 s.nodeAddr⟩

/-- The snapshot of the state that STATUS returns (R177). -/
def snapshotOf (s : State) : StatusSnapshot where
  deviceMode := s.tables.deviceMode
  trackerState := s.tracker.state
  lastCycle := s.tracker.lastCycle
  consecutiveLost := s.tracker.consecutiveLost
  lostTotal := s.tracker.lostTotal
  commit := s.tables.commit
  copyInFlight := s.tables.copyInFlight
  modeChange := s.tables.modeChange
  groups := s.groups.map (·.state)
  logCount := s.log.records.length
  lost := s.log.lost
  test := s.test.pending.map (fun t => (t.expectation.kind, t.channel))
  counters := s.counters

/-- STATUS (R177). -/
def runStatus (args : List Byte) (s : State) : Answer :=
  if args ≠ [] then refuse s .badArg else ⟨s, .ok, .snapshot (snapshotOf s)⟩

/-! ### Reading and writing the tables -/

/-- A read of STAGING is refused while a bank copy is in flight (R18, R124). -/
def readBusy (t : TableStore) (role : BankRole) : Bool := role == .staging && t.copyInFlight

/-- The edited mark in the reply to a read: present for STAGING (R18). -/
def markFor (role : BankRole) (mark : Bool) : Option Bool := if role = .staging then some mark else none

/-- READ-CHANNEL (R18). -/
def runReadChannel (args : List Byte) (s : State) : Answer :=
  match args with
  | [b, n] =>
    match roleOf b, chanOf n.toNat with
    | some role, some c =>
      if readBusy s.tables role then refuse s .busy
      else
        ⟨s, .ok, .channelEntry (s.tables.letter role) (s.tables.bank (s.tables.letter role)).channels[c]
          (markFor role s.tables.marks.channels[c])⟩
    | _, _ => refuse s .badArg
  | _ => refuse s .badArg

/-- READ-GROUP (R19). -/
def runReadGroup (args : List Byte) (s : State) : Answer :=
  match args with
  | [b, n] =>
    match roleOf b, grpOf n.toNat with
    | some role, some g =>
      if readBusy s.tables role then refuse s .busy
      else
        ⟨s, .ok, .groupEntry (s.tables.letter role) (s.tables.bank (s.tables.letter role)).groups[g]
          (markFor role s.tables.marks.groups[g])⟩
    | _, _ => refuse s .badArg
  | _ => refuse s .badArg

/-- READ-CYCLE (R19). -/
def runReadCycle (args : List Byte) (s : State) : Answer :=
  match args with
  | [b] =>
    match roleOf b with
    | some role =>
      if readBusy s.tables role then refuse s .busy
      else
        ⟨s, .ok, .cycleParams (s.tables.letter role) (s.tables.bank (s.tables.letter role)).cycle
          (markFor role s.tables.marks.cycle)⟩
    | none => refuse s .badArg
  | _ => refuse s .badArg

/-- What is pending, as a PENDING refusal names it (R124). -/
def pendingResult (t : TableStore) : Option Result :=
  match t.commit with
  | some target => some (.pendingCommit target)
  | none => if t.modeChange then some .pendingMode else none

/-- Steps 3 and 4 of a write: BUSY, PENDING, the range tests, and then the accepted write (R16). -/
def writeItems (inRange : Nat → Nat → Bool) (l : FieldList) (write : TableStore → TableStore) (s : State) : Answer :=
  if s.tables.copyInFlight then refuse s .busy
  else
    match pendingResult s.tables with
    | some what => refuse s .pending what
    | none =>
      match firstRefused inRange l with
      | some n => refuse s .badArg (.field n)
      | none => ⟨{ s with tables := write s.tables }, .ok, .empty⟩

/-- A staging channel entry written, and its mark set (R16). -/
def TableStore.writeChannel (t : TableStore) (c : Chan) (e : ChannelEntry) : TableStore :=
  let b := t.stagingBank
  { t.setStaging { b with channels := b.channels.set c e } with
    marks := { t.marks with channels := t.marks.channels.set c true } }

/-- A staging group entry written, and its mark set (R16). -/
def TableStore.writeGroup (t : TableStore) (g : Grp) (e : GroupEntry) : TableStore :=
  let b := t.stagingBank
  { t.setStaging { b with groups := b.groups.set g e } with
    marks := { t.marks with groups := t.marks.groups.set g true } }

/-- The staging cycle parameters record written, and its mark set (R16). -/
def TableStore.writeCycle (t : TableStore) (p : CycleParams) : TableStore :=
  { t.setStaging { t.stagingBank with cycle := p } with marks := { t.marks with cycle := true } }

/-- WRITE-CHANNEL (R16, R17). -/
def runWriteChannel (args : List Byte) (s : State) : Answer :=
  match args with
  | [] => refuse s .badArg
  | n :: rest =>
    match fieldListOf channelWidth 20 rest, chanOf n.toNat with
    | some l, some c =>
      writeItems channelInRange l
        (fun t => t.writeChannel c (l.items.foldl writeChannelField t.stagingBank.channels[c])) s
    | _, _ => refuse s .badArg

/-- WRITE-GROUP (R16, R17). -/
def runWriteGroup (args : List Byte) (s : State) : Answer :=
  match args with
  | [] => refuse s .badArg
  | n :: rest =>
    match fieldListOf groupWidth 4 rest, grpOf n.toNat with
    | some l, some g =>
      writeItems groupInRange l (fun t => t.writeGroup g (l.items.foldl writeGroupField t.stagingBank.groups[g])) s
    | _, _ => refuse s .badArg

/-- WRITE-CYCLE (R16, R17). -/
def runWriteCycle (args : List Byte) (s : State) : Answer :=
  match fieldListOf cycleWidth 3 args with
  | some l => writeItems cycleInRange l (fun t => t.writeCycle (l.items.foldl writeCycleField t.stagingBank.cycle)) s
  | none => refuse s .badArg

/-! ### Commit and mode -/

/-- The judgement of a target against the tracker (R127): none when it is accepted. -/
def targetRefused (t : CommitTarget) (k : Tracker) : Option (Status × Result) :=
  match t with
  | .next => none
  | .atCycle n =>
    if k.state = .nosync then some (.noSync, .empty)
    else if ahead n k.lastCycle then none
    else some (.late, .late k.lastCycle)

/-- COMMIT (R125). -/
def runCommit (args : List Byte) (s : State) : Answer :=
  match targetOf args with
  | none => refuse s .badArg
  | some t =>
    if s.tables.copyInFlight then refuse s .busy
    else
      match pendingResult s.tables with
      | some what => refuse s .pending what
      | none =>
        match validate s.tables.stagingBank with
        | some f => refuse s .invalid (.invalid f.1 f.2)
        | none =>
          match targetRefused t s.tracker with
          | some p => refuse s p.1 p.2
          | none => ⟨{ s with tables := { s.tables with commit := some t } }, .ok, .target t⟩

/-- CANCEL (R130). -/
def runCancel (args : List Byte) (s : State) : Answer :=
  if args ≠ [] then refuse s .badArg
  else ⟨{ s with tables := { s.tables with commit := none } }, .ok, .cancelled s.tables.commit⟩

/-- The TRIPPED groups, ascending (R138). -/
def trippedList (s : State) : List Grp := allGroups.filter (fun g => (s.group g).state == .tripped)

/-- BYPASS (R138). -/
def runBypass (args : List Byte) (s : State) : Answer :=
  if args ≠ [] then refuse s .badArg
  else if s.tables.deviceMode = .bypass then refuse s .mode
  else
    match pendingResult s.tables with
    | some what => refuse s .pending what
    | none =>
      if s.anyTripped then refuse s .tripped (.trippedGroups (trippedList s))
      else ⟨{ s with tables := { s.tables with modeChange := true } }, .ok, .empty⟩

/-! ### Runtime state and groups -/

/-- CHANNEL-STATE (R83). -/
def runChannelState (args : List Byte) (s : State) : Answer :=
  match args with
  | [n] =>
    match chanOf n.toNat with
    | some c => ⟨s, .ok, .channelRecord (s.channel c)⟩
    | none => refuse s .badArg
  | _ => refuse s .badArg

/-- The readiness of a TRIPPED group, absent while ARMED (R121). -/
def readinessOf (s : State) (g : Grp) : Option Readiness :=
  match (s.group g).state with
  | .armed => none
  | .tripped =>
    match failedCondition s g with
    | none => some .ready
    | some why => some (.failed why)

/-- GROUP-STATE (R121). -/
def runGroupState (args : List Byte) (s : State) : Answer :=
  match args with
  | [n] =>
    match grpOf n.toNat with
    | some g => ⟨s, .ok, .groupRecord (s.group g) (readinessOf s g)⟩
    | none => refuse s .badArg
  | _ => refuse s .badArg

/-- What a TRIP command does to a group, by its state (R110). -/
def tripItemOf (s : State) (g : Grp) : TripItem :=
  match (s.group g).state with
  | .armed => .tripped
  | .tripped => .restarted

/-- TRIP (R110). A request to one group changes no other group's state, so the items are read before the requests. -/
def runTrip (args : List Byte) (s : State) : Answer :=
  match groupArgOf args with
  | none => refuse s .badArg
  | some a =>
    if s.tables.deviceMode = .bypass then refuse s .mode
    else ⟨tripGroups .command a.groups s, .ok, .tripItems (a.groups.map (tripItemOf s))⟩

/-- REARM over some groups in order, with each group's item (R115). -/
def rearmOver : List Grp → State → State × List RearmItem
  | [], s => (s, [])
  | g :: rest, s =>
    let p := tryRearm .command g s
    let q := rearmOver rest p.1
    (q.1, p.2 :: q.2)

/-- REARM (R114, R115). -/
def runRearm (args : List Byte) (s : State) : Answer :=
  match groupArgOf args with
  | none => refuse s .badArg
  | some (.one g) =>
    let p := tryRearm .command g s
    ⟨p.1, p.2.status, .rearmItem p.2⟩
  | some .all =>
    let q := rearmOver allGroups s
    ⟨q.1, .ok, .rearmItems q.2⟩

/-! ### Log and tests -/

/-- LOG-READ (R147). -/
def runLogRead (args : List Byte) (s : State) : Answer :=
  match args with
  | [k] =>
    if 1 ≤ k.toNat ∧ k.toNat ≤ 4 then
      ⟨s, .ok, .logRecords s.log.records.length s.log.lost (s.log.records.take k.toNat)⟩
    else refuse s .badArg
  | _ => refuse s .badArg

/-- The records behind the one with a sequence, and how many were removed up to and including it; none when no record has it (R148). -/
def acknowledge (q : Seq) : List LogRecord → Option (Nat × List LogRecord)
  | [] => none
  | r :: rest => if r.sequence = q then some (1, rest) else (acknowledge q rest).map fun p => (p.1 + 1, p.2)

/-- LOG-ACK (R148). -/
def runLogAck (args : List Byte) (s : State) : Answer :=
  match args with
  | [a, b] =>
    match acknowledge (word2 a b) s.log.records with
    | none => refuse s .badArg
    | some p => ⟨{ s with log := { s.log with records := p.2 } }, .ok, .logAcked p.1 p.2.length⟩
  | _ => refuse s .badArg

/-- LOG-CLEAR (R149). -/
def runLogClear (args : List Byte) (s : State) : Answer :=
  if args ≠ [] then refuse s .badArg else ⟨clearLog s, .ok, .logCleared s.log.records.length s.log.lost⟩

/-- TEST (R158, R159). -/
def runTestCommand (args : List Byte) (s : State) : Answer :=
  match testOf args with
  | none => refuse s .badArg
  | some t =>
    if s.tables.deviceMode = .bypass then refuse s .mode
    else
      match s.test.pending with
      | some p => refuse s .busy (.busyTest p.expectation.kind p.channel)
      | none =>
        if (s.entry t.channel).mode = .off then refuse s .badArg (.offChannel t.channel)
        else if s.tracker.state = .nosync then ⟨runTest t none s, .ok, .testRan⟩
        else ⟨{ s with test := { s.test with pending := some t } }, .ok, .testPending⟩

/-- TEST-RESULT (R167). -/
def runTestResult (args : List Byte) (s : State) : Answer :=
  match yesNoOf args with
  | none => refuse s .badArg
  | some clear =>
    ⟨if clear then { s with test := { s.test with last := .nothing } } else s, .ok, .testRecord s.test⟩

/-! ### RESET -/

/-- RESET with scope RUNTIME (R182). -/
def resetRuntimeOp (s : State) : State :=
  { resetAllRecords s with
    counters := .zero
    tracker := { s.tracker with consecutiveLost := 0, lostTotal := 0 } }

/-- RESET with scope DEVICE, but for its reply: all but the node address, the link states (with what the receivers keep; log 7), the
TRIP_N level, the Forward and Return Queues and the frames on the lines takes its power-on value. The marks on queued frames are
removed, and a SEG whose samples were being worked has no work left (R65, R184, R192). -/
def resetDeviceOp (s : State) : State :=
  { State.reset with
    nodeAddr := s.nodeAddr
    tripHigh := s.tripHigh
    upU := s.upU
    upD := s.upD
    rxU := s.rxU
    rxD := s.rxD
    txD := s.txD
    txU := s.txU
    forward := s.forward.map (fun q => { q with complete := true, ending := false })
    ret := s.ret
    pending := s.pending }

/-- RESET with scope RUNTIME: BADARG for a malformed argument (R182). -/
def runResetRuntime (args : List Byte) (s : State) : Answer :=
  if scopeOf args = some .runtime then ⟨resetRuntimeOp s, .ok, .scope .runtime⟩ else refuse s .badArg

/-- RESET with scope LOG: BADARG for a malformed argument (R182, R183). -/
def runResetLog (args : List Byte) (s : State) : Answer :=
  if scopeOf args = some .log then ⟨clearLog s, .ok, .scope .log⟩ else refuse s .badArg

/-- RESET with scope DEVICE: BADARG for a malformed argument (R182, R184). -/
def runResetDevice (args : List Byte) (s : State) : Answer :=
  if scopeOf args = some .device then ⟨resetDeviceOp s, .ok, .scope .device⟩ else refuse s .badArg

/-- RESET by the scope it carries (R182). -/
def runReset (args : List Byte) (s : State) : Answer :=
  match scopeOf args with
  | some .runtime => runResetRuntime args s
  | some .log => runResetLog args s
  | some .device => runResetDevice args s
  | none => refuse s .badArg

/-- A code that names no command (R175). -/
def runUnknown (_args : List Byte) (s : State) : Answer := refuse s .unknown

end Sys2Proof.Machine
end

