-- ==== Sys2Proof/Machine/Executor.lean ====
section
/-! DEFINITION. The Command Executor: the catalogue of codes, taking the command at the head of the FIFO, and placing its reply (R171,
R172). -/

namespace Sys2Proof.Machine

/-- The codes of the commands, each with the carrying out of its command (R176 to R182). -/
def commandTable : List (Byte × (List Byte → State → Answer)) :=
  [(0x01, runIdentify), (0x02, runStatus), (0x10, runReadChannel), (0x11, runWriteChannel), (0x12, runReadGroup),
    (0x13, runWriteGroup), (0x14, runReadCycle), (0x15, runWriteCycle), (0x20, runCommit), (0x21, runCancel),
    (0x22, runBypass), (0x30, runChannelState), (0x31, runGroupState), (0x32, runTrip), (0x33, runRearm), (0x40, runLogRead),
    (0x41, runLogAck), (0x42, runLogClear), (0x50, runTestCommand), (0x51, runTestResult), (0x60, runReset)]

/-- What a command code names: the carrying out of its command, or none for a code that names no command (R175). -/
def catalogue (code : Byte) : Option (List Byte → State → Answer) := commandTable.lookup code

/-- The reply to a command: placed at the tail of the reply list for a unicast command, none for a broadcast (R172). -/
def placeReply (c : Command) (status : Status) (result : Result) (s : State) : State :=
  if c.broadcast then s else { s with replies := s.replies ++ [⟨s.nodeAddr, c.tag, c.code, status, result⟩] }

/-- A command is carried out and its reply placed (R171). -/
def carryOut (run : List Byte → State → Answer) (c : Command) (s : State) : State :=
  let a := run c.args s
  placeReply c a.status a.result a.state

/-- The Executor may take a command: a broadcast always, a unicast command while a reply place is free (R171). -/
def mayTake (c : Command) (s : State) : Bool := c.broadcast || decide (s.replies.length < Config.replyPlaces)

/-- The Executor takes the command at the head of the FIFO, if a condition on it holds and it may be taken; otherwise nothing is
taken (R171; log 3). -/
def takeHead (is : Command → Bool) (run : List Byte → State → Answer) (s : State) : State :=
  match s.cmdFifo with
  | [] => s
  | c :: rest => if is c && mayTake c s then carryOut run c { s with cmdFifo := rest } else s

/-- The command bears a code. -/
def hasCode (code : Byte) (c : Command) : Bool := c.code == code

/-- A RESET command that a row of one scope takes: its own scope, or a malformed argument, which names no scope (R182; log 15). -/
def isReset (scope : ResetScope) (c : Command) : Bool :=
  c.code == 0x60 && (scopeOf c.args == some scope || (scopeOf c.args).isNone)

/-- The command's code names no command (R175). -/
def isUnknown (c : Command) : Bool := (catalogue c.code).isNone

/-- The Executor takes whatever command stands at the head (R171). -/
def executorTakes (s : State) : State :=
  match s.cmdFifo with
  | [] => s
  | c :: _ => takeHead (fun _ => true) ((catalogue c.code).getD runUnknown) s

end Sys2Proof.Machine
end

