-- ==== Sys2Proof/Machine/Events.lean ====
section
/-! DEFINITION. The meanings of the rows that are events: resets, frames, the timer, the bank copy, TRIP_N and the ports. -/

namespace Sys2Proof.Machine

/-- The outcome of a step. -/
abbrev Out := Host.Outcome State Fault Refusal

/-- A whole act of the part, after which the transmitters make their choices (R192; log 5). -/
def act (s : State) : Out := .next (settle s)

/-- POWER_ON_RESET: every block at its power-on values, the straps and the TRIP_N level sampled, both ports DOWN (R3, R22, R108, R169,
R187). -/
def execPowerOnReset (straps : BitVec 6) (tripHigh : Bool) (s : State) : Out :=
  act { State.reset with nodeAddr := straps, tripHigh := tripHigh, pending := s.pending }

/-! ### What port U receives (R188, R189) -/

/-- A frame received on port U: into the Forward Queue if a place is free; `onSegment` is what a SEG that finds one does (R188, R189). -/
def receiveU (onSegment : Segment → State → State) (f : Arriving) (ending : FrameEnd) (s : State) : State :=
  match receive f ending with
  | .badCheck => countCheckError .u s
  | .badFormat => countFormatError .u s
  | .good kind payload =>
    if s.forwardRoom then
      if kind = 0x01 then onSegment (readSegment payload) s else enterForward (.passed f.bytes) s
    else forwardOverrun s

/-- What an event of port U's receiver brings about (R187, R188, R195). -/
def lineEventU (onSegment : Segment → State → State) (e : RxEvent) (s : State) : State :=
  match e with
  | .comesUp => portUpOp .u s
  | .goesDown => portUDownOp s
  | .frame f ending => receiveU onSegment f ending s
  | .overlong => countFormatError .u s

/-- An event of port U's receiver reaches the tracker: the port going DOWN, and a SEG that finds a place (R23, R38). -/
def reachesTracker (e : RxEvent) (s : State) : Bool :=
  match e with
  | .goesDown => true
  | .frame f ending =>
    match receive f ending with
    | .good kind _ => kind == 0x01 && s.forwardRoom
    | _ => false
  | _ => false

/-- Port U's receiver takes patterns while the tracker takes a segment. Patterns that bring an event to the tracker are not taken here: that
event comes after the whole segment (R41; log 6). -/
def takeBeside (line : List Pattern) (s : State) : State :=
  if ((s.rxU.run s.upU (line.map symbolOf)).2.any fun e => reachesTracker e.1 s) then s
  else takeLine .u (lineEventU fun _ s => s) (line.map symbolOf) s

/-! ### A segment's samples, with the events between them (R41, R45, R65) -/

/-- The end of a port D transmission, and what takes port D DOWN before the next choice, where something does (R193, R194). -/
def transmitEndD (down : Option DownCause) (s : State) : State :=
  match down with
  | none => transmitEnd .d s
  | some c => causeD c (transmitEnd .d s)

/-- An event taken between two samples (R65, R82, R95), with the transmitters' choices after it. -/
def betweenAct (b : Between) (s : State) : State :=
  settle
    (match b with
    | .executorTakes => executorTakes s
    | .tripNFall => tripLineFall s
    | .tripNRise => tripLineRise s
    | .bankCopyComplete => completeCopy s
    | .transmitEndU => transmitEnd .u s
    | .transmitEndD down => transmitEndD down s
    | .portDLine line => takeLineD line s
    | .portDSignalLoss => portDDownOp s
    | .portULine line => takeBeside line s)

/-- Some events in order. -/
def betweenActs (l : List Between) (s : State) : State := l.foldl (fun s b => betweenAct b s) s

/-- An act of a segment's work is over: with no sample left the SEG is complete, and the transmitters make their choices (R189, R192). -/
def workDone (left : List SampleEntry) (s : State) : State := settle (if left.isEmpty then completeFrames s else s)

/-- The samples of a processed segment in frame order: before each, the events of its list; `done` is the outgoing entries so far,
and the queued SEG shows them and the entries still to come (R45, R50, R65). The lists behind the last sample's come before any close. -/
def workSamples (g : Segment) : List SampleEntry → List SampleEntry → List (List Between) → State → State
  | _, [], between, s => between.foldl (fun s l => betweenActs l s) s
  | done, x :: rest, between, s =>
    let s₁ := betweenActs (between.headD []) s
    let p := sampleWork x s₁
    let done' := done ++ p.2.toList
    workSamples g done' rest between.tail (workDone rest (rewriteEntries g (done' ++ rest) p.1))

/-- The close that a last flag causes, unless a RESET DEVICE has given up the cycle (R27, R65). -/
def closeOnLast (last : Bool) (s : State) : State :=
  if last && s.tracker.state == .opened then closeCycle .complete s else s

/-- The tracker takes a SEG placed in the Forward Queue: its arrival, and, if it is processed, the work on its samples, with the last of
which the SEG is complete, and the close its last flag causes. In ACTIVE a discarded SEG leaves the queue; in BYPASS it stays (R23, R41,
R189). No list of `between` stands inside the arrival (DESIGN CHOICE, log 24). -/
def segmentArrival (g : Segment) (between : List (List Between)) (s : State) : State :=
  let p := arrive g.cycle g.index s
  if p.1 then segmentOver (closeOnLast g.last (workSamples g [] g.entries between (workDone g.entries p.2)))
  else if s.tables.deviceMode = .active then dropIncomplete p.2
  else segmentOver (completeFrames p.2)

/-- A SEG that finds a place joins the Forward Queue and reaches the tracker (R23, R189). -/
def takeSegment (between : List (List Between)) (g : Segment) (s : State) : State := segmentArrival g between (enterSegment g s)

/-! ### What a port's receiver takes (R186 to R188) -/

/-- What an event of a port's receiver brings about. -/
def lineEvent (p : Port) (between : List (List Between)) : RxEvent → State → State :=
  match p with
  | .u => lineEventU (takeSegment between)
  | .d => lineEventD

/-- A port's receiver takes patterns from its line, and what they bring about happens. -/
def takeFrom (p : Port) (line : List Pattern) (between : List (List Between)) (s : State) : State :=
  takeLine p (lineEvent p between) (line.map symbolOf) s

/-- Port U's receiver meets a cause, and goes DOWN where it takes it there (R187, R195; log 4). -/
def causeU (c : DownCause) (s : State) : State :=
  match c with
  | .lossOfSignal => portUDownOp s
  | .violations line => takeFrom .u line [] s

/-- The end of a port U transmission, and what takes port U DOWN before the next choice, where something does (R193, R195). -/
def transmitEndU (down : Option DownCause) (s : State) : State :=
  match down with
  | none => transmitEnd .u s
  | some c => causeU c (transmitEnd .u s)

/-- FRAME_RECEIVED (R188). -/
def execFrameReceived (p : Port) (line : List Pattern) (last : Pattern) (between : List (List Between)) (s : State) : Out :=
  act (takeFrom p (line ++ [last]) between s)

/-- FRAME_OVERLONG (R188). -/
def execFrameOverlong (t : Taken) (s : State) : Out := act (takeFrom t.port t.line [] s)

/-- FRAME_TRANSMIT_END, with port D's or port U's going DOWN before the next choice where it is given (R193, R194). -/
def execFrameTransmitEnd (e : TransmitEnd) (s : State) : Out :=
  act (match e.port with
    | .u => transmitEndU e.down s
    | .d => transmitEndD e.down s)

/-- CYCLE_TIMER_EXPIRY (R35, R36). -/
def execCycleTimerExpiry (s : State) : Out := act (timerExpiry s)

/-- BANK_COPY_COMPLETE (R134). -/
def execBankCopyComplete (s : State) : Out := act (completeCopy s)

/-- TRIP_N_FALL (R108). -/
def execTripNFall (s : State) : Out := act (tripLineFall s)

/-- TRIP_N_RISE (R108). -/
def execTripNRise (s : State) : Out := act (tripLineRise s)

/-- PORT_UP (R187). -/
def execPortUp (p : Port) (line : List Pattern) (s : State) : Out := act (takeFrom p line [] s)

/-- PORT_D_DOWN (R187, R194). -/
def execPortDDown (cause : DownCause) (s : State) : Out := act (causeD cause s)

/-- PORT_U_DOWN (R187, R195). -/
def execPortUDown (cause : DownCause) (s : State) : Out := act (causeU cause s)

end Sys2Proof.Machine
end

