-- ==== Sys2Proof/Machine/Management.lean ====
section
/-! DEFINITION. The meanings of the rows that are management commands: each is the taking of that command from the head of the Command
FIFO (R171; log 3). -/

namespace Sys2Proof.Machine

/-- IDENTIFY (R176). -/
def execIdentify (s : State) : Out := act (takeHead (hasCode 0x01) runIdentify s)

/-- STATUS (R177). -/
def execStatus (s : State) : Out := act (takeHead (hasCode 0x02) runStatus s)

/-- READ_CHANNEL (R18). -/
def execReadChannel (s : State) : Out := act (takeHead (hasCode 0x10) runReadChannel s)

/-- WRITE_CHANNEL (R16). -/
def execWriteChannel (s : State) : Out := act (takeHead (hasCode 0x11) runWriteChannel s)

/-- READ_GROUP (R19). -/
def execReadGroup (s : State) : Out := act (takeHead (hasCode 0x12) runReadGroup s)

/-- WRITE_GROUP (R16). -/
def execWriteGroup (s : State) : Out := act (takeHead (hasCode 0x13) runWriteGroup s)

/-- READ_CYCLE (R19). -/
def execReadCycle (s : State) : Out := act (takeHead (hasCode 0x14) runReadCycle s)

/-- WRITE_CYCLE (R16). -/
def execWriteCycle (s : State) : Out := act (takeHead (hasCode 0x15) runWriteCycle s)

/-- COMMIT (R125). -/
def execCommit (s : State) : Out := act (takeHead (hasCode 0x20) runCommit s)

/-- CANCEL (R130). -/
def execCancel (s : State) : Out := act (takeHead (hasCode 0x21) runCancel s)

/-- BYPASS (R138). -/
def execBypass (s : State) : Out := act (takeHead (hasCode 0x22) runBypass s)

/-- CHANNEL_STATE (R83). -/
def execChannelState (s : State) : Out := act (takeHead (hasCode 0x30) runChannelState s)

/-- GROUP_STATE (R121). -/
def execGroupState (s : State) : Out := act (takeHead (hasCode 0x31) runGroupState s)

/-- TRIP (R110). -/
def execTrip (s : State) : Out := act (takeHead (hasCode 0x32) runTrip s)

/-- REARM (R114, R115). -/
def execRearm (s : State) : Out := act (takeHead (hasCode 0x33) runRearm s)

/-- LOG_READ (R147). -/
def execLogRead (s : State) : Out := act (takeHead (hasCode 0x40) runLogRead s)

/-- LOG_ACK (R148). -/
def execLogAck (s : State) : Out := act (takeHead (hasCode 0x41) runLogAck s)

/-- LOG_CLEAR (R149). -/
def execLogClear (s : State) : Out := act (takeHead (hasCode 0x42) runLogClear s)

/-- TEST (R158). -/
def execTest (s : State) : Out := act (takeHead (hasCode 0x50) runTestCommand s)

/-- TEST_RESULT (R167). -/
def execTestResult (s : State) : Out := act (takeHead (hasCode 0x51) runTestResult s)

/-- RESET_RUNTIME (R182). -/
def execResetRuntime (s : State) : Out := act (takeHead (isReset .runtime) runResetRuntime s)

/-- RESET_LOG (R183). -/
def execResetLog (s : State) : Out := act (takeHead (isReset .log) runResetLog s)

/-- RESET_DEVICE (R184). -/
def execResetDevice (s : State) : Out := act (takeHead (isReset .device) runResetDevice s)

/-- UNKNOWN_COMMAND (R175). -/
def execUnknownCommand (s : State) : Out := act (takeHead isUnknown runUnknown s)

end Sys2Proof.Machine
end

