-- ==== Sys2Proof/Machine/Dispatch.lean ====
section
/-! DEFINITION. exec: one arm per step of the part, each one direct call of its meaning. -/

namespace Sys2Proof.Machine

def exec (i : Instr) (s : State) : Host.Outcome State Fault Refusal :=
  match i with
  | .powerOnReset straps tripHigh => Sys2Proof.Machine.execPowerOnReset straps tripHigh s
  | .frameReceived p line last between => Sys2Proof.Machine.execFrameReceived p line last between s
  | .cycleTimerExpiry => Sys2Proof.Machine.execCycleTimerExpiry s
  | .bankCopyComplete => Sys2Proof.Machine.execBankCopyComplete s
  | .tripNFall => Sys2Proof.Machine.execTripNFall s
  | .tripNRise => Sys2Proof.Machine.execTripNRise s
  | .portUp p line => Sys2Proof.Machine.execPortUp p line s
  | .portDDown cause => Sys2Proof.Machine.execPortDDown cause s
  | .portUDown cause => Sys2Proof.Machine.execPortUDown cause s
  | .frameTransmitEnd e => Sys2Proof.Machine.execFrameTransmitEnd e s
  | .identify => Sys2Proof.Machine.execIdentify s
  | .status => Sys2Proof.Machine.execStatus s
  | .readChannel => Sys2Proof.Machine.execReadChannel s
  | .writeChannel => Sys2Proof.Machine.execWriteChannel s
  | .readGroup => Sys2Proof.Machine.execReadGroup s
  | .writeGroup => Sys2Proof.Machine.execWriteGroup s
  | .readCycle => Sys2Proof.Machine.execReadCycle s
  | .writeCycle => Sys2Proof.Machine.execWriteCycle s
  | .commit => Sys2Proof.Machine.execCommit s
  | .cancel => Sys2Proof.Machine.execCancel s
  | .bypass => Sys2Proof.Machine.execBypass s
  | .channelState => Sys2Proof.Machine.execChannelState s
  | .groupState => Sys2Proof.Machine.execGroupState s
  | .trip => Sys2Proof.Machine.execTrip s
  | .rearm => Sys2Proof.Machine.execRearm s
  | .logRead => Sys2Proof.Machine.execLogRead s
  | .logAck => Sys2Proof.Machine.execLogAck s
  | .logClear => Sys2Proof.Machine.execLogClear s
  | .test => Sys2Proof.Machine.execTest s
  | .testResult => Sys2Proof.Machine.execTestResult s
  | .resetRuntime => Sys2Proof.Machine.execResetRuntime s
  | .resetLog => Sys2Proof.Machine.execResetLog s
  | .resetDevice => Sys2Proof.Machine.execResetDevice s
  | .unknownCommand => Sys2Proof.Machine.execUnknownCommand s
  | .frameOverlong t => Sys2Proof.Machine.execFrameOverlong t s

end Sys2Proof.Machine
end

