-- ==== Sys2Proof/Safety.lean ====
section
/-! DEFINITION. What holds of the part between steps: the conditions the spec states "at all times", as predicates on a state; and the
terms in which statements about a step are written. -/

namespace Sys2Proof.Machine

/-- A frame is a FILL built by this part (R189). -/
def Frame.isFill : Frame → Bool
  | .fill .. => true
  | _ => false

/-- The queues hold no more than their places: the Command FIFO 4 (R168), the Forward Queue 4 and one FILL (R189), the Return Queue 4
(R190), the reply list 8 (R191). -/
structure QueuesBounded (s : State) : Prop where
  fifo : s.cmdFifo.length ≤ 4
  forward : placesTaken s.forward ≤ 4
  reserved : s.forward.countP (·.reserved) ≤ 1
  ret : s.ret.length ≤ 4
  replies : s.replies.length ≤ 8

/-- Between steps the tracker is taking no segment: every queued frame is complete, and the reserved place holds a FILL of this part and
nothing else (R41, R189). -/
def ForwardSettled (s : State) : Prop :=
  (∀ q ∈ s.forward, q.complete = true ∧ q.underway = false ∧ q.reserved = q.frame.isFill) ∧ ∀ f ∈ s.txD, f.underway = false

/-- FAULT_N is driven low exactly while at least one group is TRIPPED (R103). -/
def FaultPinHonest (s : State) : Prop := s.faultLow = true ↔ ∃ g : Grp, (s.group g).state = .tripped

/-- A group record's fields agree with its state (R102). -/
structure GroupRecord.WellFormed (r : GroupRecord) : Prop where
  armed : r.state = .armed → r = .armed
  cause : r.state = .tripped → r.cause.isSome
  channel : r.causeChannel.isSome ↔ r.cause = some .channel

/-- Every group record is well formed (R102), and a group is TRIPPED only while the device mode is ACTIVE (R106). -/
structure GroupsSound (s : State) : Prop where
  records : ∀ g : Grp, (s.group g).WellFormed
  active : (∃ g : Grp, (s.group g).state = .tripped) → s.tables.deviceMode = .active

/-- The log holds at most 64 records, and each record's sequence is one more than that of the record before it, the next one being
next_sequence (R144). -/
structure LogSound (l : FaultLog) : Prop where
  bounded : l.records.length ≤ 64
  numbered : ∀ (i : Nat) (h : i < l.records.length),
    l.records[i].sequence = l.nextSequence - BitVec.ofNat 16 (l.records.length - i)

/-- At most one of a pending commit and a pending mode change exists, no commit is pending while a copy is in flight, and a mode
change or a test is pending only in ACTIVE (R124, R134, R138, R166). -/
structure PendingSound (s : State) : Prop where
  one : s.tables.commit = none ∨ s.tables.modeChange = false
  copy : s.tables.copyInFlight = true → s.tables.commit = none
  mode : s.tables.modeChange = true → s.tables.deviceMode = .active
  test : s.test.pending.isSome → s.tables.deviceMode = .active

/-- Whenever no bank copy is in flight, every staging entry whose edited mark is clear is identical to the active entry (R15). -/
structure StagingAgrees (t : TableStore) : Prop where
  channels : t.copyInFlight = false → ∀ c : Chan, t.marks.channels[c] = false → t.stagingBank.channels[c] = t.activeBank.channels[c]
  groups : t.copyInFlight = false → ∀ g : Grp, t.marks.groups[g] = false → t.stagingBank.groups[g] = t.activeBank.groups[g]
  cycle : t.copyInFlight = false → t.marks.cycle = false → t.stagingBank.cycle = t.activeBank.cycle

/-- Every field of a channel entry lies in its range (R5). -/
structure ChannelEntry.InRange (e : ChannelEntry) : Prop where
  period : e.period ∈ [1, 2, 4, 8, 16]
  phase : e.phase ≤ 15
  rateLimit : e.rateLimit ≤ 8388607
  window : 1 ≤ e.window ∧ e.window ≤ 16
  threshold : 1 ≤ e.threshold ∧ e.threshold ≤ 16
  recovery : 1 ≤ e.recovery ∧ e.recovery ≤ 255

/-- Every field of every entry of a bank lies in its range (R5, R9, R12). -/
structure Bank.InRange (b : Bank) : Prop where
  channels : ∀ c : Chan, b.channels[c].InRange
  holdoff : ∀ g : Grp, b.groups[g].holdoff ≤ 255
  timeout : 10 ≤ b.cycle.cycleTimeout ∧ b.cycle.cycleTimeout ≤ 65535
  lossLimit : 1 ≤ b.cycle.lossLimit ∧ b.cycle.lossLimit ≤ 16

/-- Both banks hold fields in range (R5, R9, R12). -/
def TablesInRange (t : TableStore) : Prop := t.bankA.InRange ∧ t.bankB.InRange

/-- The active bank has passed validation, and so has the staging bank of a pending commit (R57, R124, R126). -/
structure TablesValid (t : TableStore) : Prop where
  active : validate t.activeBank = none
  staged : t.commit.isSome → validate t.stagingBank = none
  copy : t.copyInFlight = true → t.commit = none

/-- The cycle timer is stopped exactly in NOSYNC (R21, R35). -/
def TimerSound (s : State) : Prop := s.tracker.timer = none ↔ s.tracker.state = .nosync

/-- The tracker's counts lie in their ranges (R21), and consecutive_lost is below the active loss_limit while the link is not lost
(R36). -/
structure LossSound (s : State) : Prop where
  consecutive : s.tracker.consecutiveLost ≤ 16
  limit : s.tracker.state ≠ .nosync → s.tracker.consecutiveLost < s.params.lossLimit
  total : s.tracker.lostTotal ≤ 65535

/-- A runtime record meets R66's conditions and R67's table, for its active entry and for whether its channel is checked. -/
structure ChannelRecord.WellFormed (r : ChannelRecord) (e : ChannelEntry) (checked : Bool) : Prop where
  window : r.history.length ≤ e.window
  violations : r.violations = countViolating r.history
  recovery : r.state ≠ .faulted → r.recovery = 0
  running : r.state = .faulted → r.recovery < e.recovery
  classes : r.faultClasses.isSome ↔ r.state = .faulted
  cycle : r.faultCycle.isSome ↔ r.state = .faulted
  idle : r.state = .idle ↔ checked = false
  clean : r.state = .clean → r.violations = 0
  suspect : r.state = .suspect → 1 ≤ r.violations ∧ r.violations < e.threshold

/-- Every runtime record is well formed (R66, R67). -/
def RecordsSound (s : State) : Prop := ∀ c : Chan, (s.channel c).WellFormed (s.entry c) (s.checked c)

/-- The runtime records with what keeps them so: the tables' agreement, ranges and pending changes (R15, R66, R67, R124). -/
structure ChannelsSound (s : State) : Prop where
  records : RecordsSound s
  agrees : StagingAgrees s.tables
  inRange : TablesInRange s.tables
  pending : PendingSound s

/-! ### Terms for statements about one step -/

/-- A command of a code stands at the head of the Command FIFO, `rest` behind it, and may be taken: it is a broadcast, or a reply
place is free (R171). -/
structure AtHead (s : State) (c : Command) (rest : List Command) (code : Byte) : Prop where
  head : s.cmdFifo = c :: rest
  code : c.code = code
  room : c.broadcast = true ∨ s.replies.length < 8

/-- The command at the head has left the FIFO (R171). -/
def taken (s : State) (rest : List Command) : State := { s with cmdFifo := rest }

/-- The outcome of a command that leaves a state and answers a status and a result: the reply of a unicast command stands at the tail
of the reply list, a broadcast has none (R172), and the transmitters have made their choices. -/
def answers (c : Command) (status : Status) (result : Result) (t : State) : Out :=
  .next (settle
    (if c.broadcast then t else { t with replies := t.replies ++ [⟨t.nodeAddr, c.tag, c.code, status, result⟩] }))

/-- The record of a group after a trip request has reached it in ACTIVE (R104, R105). -/
def afterRequest (s : State) (g : Grp) (cause : TripCause) (channel : Option Chan) (cycle : Option CycleNo) : GroupRecord :=
  if (s.group g).state = .armed then ⟨.tripped, some cause, channel, cycle, (s.groupEntry g).holdoff⟩
  else { s.group g with holdoffLeft := (s.groupEntry g).holdoff }

/-- The TRIP records, as cycle and body, of the requests of one cause to the groups picked: one for each picked group that is ARMED,
ascending, and none in BYPASS (R104 to R106, R118). -/
def tripRecords (s : State) (picked : Grp → Bool) (cause : TripCause) (cycle : Option CycleNo) :
    List (Option CycleNo × RecordBody) :=
  if s.tables.deviceMode = .bypass then []
  else (allGroups.filter (fun g => picked g && (s.group g).state == .armed)).map (fun g => (cycle, .trip g cause none))

/-- The records that a log holds behind those of an earlier log, as cycle and body. -/
def newRecords (before after : FaultLog) : List (Option CycleNo × RecordBody) :=
  (after.records.drop before.records.length).map (fun r => (r.cycle, r.body))

/-- The records of the earlier log stand unchanged in front (R144). -/
def KeepsRecords (before after : FaultLog) : Prop := after.records.take before.records.length = before.records

/-- An item of a WRITE-CHANNEL field list: a field's number and an entry's value of that field in its wire form (R5, R16, R175). -/
def ChannelEntry.item (e : ChannelEntry) (n : Nat) : List Byte :=
  BitVec.ofNat 8 n ::
    match n with
    | 1 => byte1 e.mode.code
    | 2 => byte1 e.period
    | 3 => byte1 e.phase
    | 4 => byte2 e.gain.toNat
    | 5 => byte3 e.offset.toNat
    | 6 => byte3 e.lowLimit.toNat
    | 7 => byte3 e.highLimit.toNat
    | 8 => byte3 e.warnLow.toNat
    | 9 => byte3 e.warnHigh.toNat
    | 10 => byte3 e.rateLimit
    | 11 => byte1 e.classes.toNat
    | 12 => yesNo e.satIsFault
    | 13 => byte1 e.window
    | 14 => byte1 e.threshold
    | 15 => byte1 e.recovery
    | 16 => byte1 e.reaction.code
    | 17 => yesNo e.holdSuspect
    | 18 => yesNo e.trip
    | 19 => byte1 (groupCode e.group)
    | 20 => byte3 e.safeValue.toNat
    | _ => []

/-- An entry with the fields of some numbers at another entry's values and the others kept (R16). -/
def ChannelEntry.mix (old new : ChannelEntry) (ns : List Nat) : ChannelEntry where
  mode := if 1 ∈ ns then new.mode else old.mode
  period := if 2 ∈ ns then new.period else old.period
  phase := if 3 ∈ ns then new.phase else old.phase
  gain := if 4 ∈ ns then new.gain else old.gain
  offset := if 5 ∈ ns then new.offset else old.offset
  lowLimit := if 6 ∈ ns then new.lowLimit else old.lowLimit
  highLimit := if 7 ∈ ns then new.highLimit else old.highLimit
  warnLow := if 8 ∈ ns then new.warnLow else old.warnLow
  warnHigh := if 9 ∈ ns then new.warnHigh else old.warnHigh
  rateLimit := if 10 ∈ ns then new.rateLimit else old.rateLimit
  classes := if 11 ∈ ns then new.classes else old.classes
  satIsFault := if 12 ∈ ns then new.satIsFault else old.satIsFault
  window := if 13 ∈ ns then new.window else old.window
  threshold := if 14 ∈ ns then new.threshold else old.threshold
  recovery := if 15 ∈ ns then new.recovery else old.recovery
  reaction := if 16 ∈ ns then new.reaction else old.reaction
  holdSuspect := if 17 ∈ ns then new.holdSuspect else old.holdSuspect
  trip := if 18 ∈ ns then new.trip else old.trip
  group := if 19 ∈ ns then new.group else old.group
  safeValue := if 20 ∈ ns then new.safeValue else old.safeValue

/-- An item of a WRITE-GROUP field list (R9, R16). -/
def GroupEntry.item (e : GroupEntry) (n : Nat) : List Byte :=
  BitVec.ofNat 8 n ::
    match n with
    | 1 => yesNo e.autoRearm
    | 2 => byte1 e.holdoff
    | 3 => yesNo e.pinBound
    | 4 => yesNo e.linkBound
    | _ => []

/-- A group entry with the fields of some numbers at another entry's values (R16). -/
def GroupEntry.mix (old new : GroupEntry) (ns : List Nat) : GroupEntry where
  autoRearm := if 1 ∈ ns then new.autoRearm else old.autoRearm
  holdoff := if 2 ∈ ns then new.holdoff else old.holdoff
  pinBound := if 3 ∈ ns then new.pinBound else old.pinBound
  linkBound := if 4 ∈ ns then new.linkBound else old.linkBound

/-- An item of a WRITE-CYCLE field list (R12, R16). -/
def CycleParams.item (p : CycleParams) (n : Nat) : List Byte :=
  BitVec.ofNat 8 n ::
    match n with
    | 1 => byte2 p.cycleTimeout
    | 2 => byte1 p.lossLimit
    | 3 => byte2 p.alertKinds.toNat
    | _ => []

/-- The cycle parameters with the fields of some numbers at another record's values (R16). -/
def CycleParams.mix (old new : CycleParams) (ns : List Nat) : CycleParams where
  cycleTimeout := if 1 ∈ ns then new.cycleTimeout else old.cycleTimeout
  lossLimit := if 2 ∈ ns then new.lossLimit else old.lossLimit
  alertKinds := if 3 ∈ ns then new.alertKinds else old.alertKinds

/-- The field numbers of a well-formed field list over the fields 1..limit: none twice (R16). -/
def FieldNumbers (limit : Nat) (ns : List Nat) : Prop := ns.Nodup ∧ ∀ n ∈ ns, 1 ≤ n ∧ n ≤ limit

/-- The argument bytes of a TEST of this kind, channel, value and expectation (R158, R181). -/
def PendingTest.args (p : PendingTest) : List Byte :=
  byte1 p.expectation.kind.code ++ byte1 p.channel.val ++ byte3 p.value.toNat ++ p.expectation.bytes

/-- A QUALIFY expectation is a count 1..16 (R158). -/
def Expectation.InRange (e : Expectation) : Prop := ∀ n, e = .qualify n → 1 ≤ n ∧ n ≤ 16

/-- The codes that name a command (R176 to R182). -/
def commandCodes : List Byte :=
  [0x01, 0x02, 0x10, 0x11, 0x12, 0x13, 0x14, 0x15, 0x20, 0x21, 0x22, 0x30, 0x31, 0x32, 0x33, 0x40, 0x41, 0x42, 0x50, 0x51, 0x60]

/-- The rows that are the taking of a management command by the Executor. -/
def commandRows : List Instr :=
  [.identify, .status, .readChannel, .writeChannel, .readGroup, .writeGroup, .readCycle, .writeCycle, .commit, .cancel, .bypass,
    .channelState, .groupState, .trip, .rearm, .logRead, .logAck, .logClear, .test, .testResult, .resetRuntime, .resetLog,
    .resetDevice, .unknownCommand]

/-! ### Terms for what a receiver takes (R187, R188) -/

/-- 64 consecutive IDLE stand among some symbols (R187). -/
def IdleRun (l : List Symbol) : Prop := ∃ before after, l = before ++ List.replicate 64 .idle ++ after

/-- The symbols that a DOWN receiver's present run and a line make together (R187). -/
def runWith (r : Receiver) (line : List Pattern) : List Symbol := List.replicate r.idleRun .idle ++ line.map symbolOf

/-- The number of IDLE that some symbols end with: the run that a DOWN receiver is in behind them (R187). -/
def idleTail (l : List Symbol) : Nat := (l.reverse.takeWhile (· == .idle)).length

/-- The violation marks of the last 64 symbols, newest first, once an UP receiver has taken these symbols (R187). -/
def lastMarks (r : Receiver) (l : List Symbol) : List Bool := ((l.map (· == .violation)).reverse ++ r.recent).take 64

/-- The port's receiver takes these patterns without an event, and then keeps `r`. -/
def TakesQuietly (s : State) (p : Port) (line : List Pattern) (r : Receiver) : Prop :=
  (s.rx p).run (s.up p) (line.map symbolOf) = (r, none)

/-- These patterns bring an event to the port's receiver with their last one and none before; the receiver then keeps `r`. -/
def Brings (s : State) (p : Port) (line : List Pattern) (e : RxEvent) (r : Receiver) : Prop :=
  (s.rx p).run (s.up p) (line.map symbolOf) = (r, some (e, []))

/-- These patterns complete a frame on a port that is UP (R188). -/
structure Delivers (s : State) (p : Port) (line : List Pattern) (f : Arriving) (ending : FrameEnd) (r : Receiver) : Prop where
  up : s.up p = true
  frame : Brings s p line (.frame f ending) r

/-- What takes an UP receiver DOWN (R187): loss of signal, or the code violation that ends these patterns. -/
def SignalFails (s : State) (p : Port) (c : DownCause) : Prop :=
  c = .lossOfSignal ∨ ∃ line r, c = .violations line ∧ Brings s p line .goesDown r

/-- The payload has the form of its kind (R188, R196). -/
structure FormOf (kind : Byte) (p : List Byte) : Prop where
  seg : kind = 0x01 → (p.getD 3 0).toNat ≤ 48 ∧ p.length = 4 + 5 * (p.getD 3 0).toNat
  fill : kind = 0x02 → 1 ≤ (p.getD 2 0).toNat ∧ (p.getD 2 0).toNat ≤ 96 ∧ p.length = 3 + 5 * (p.getD 2 0).toNat
  cmd : kind = 0x03 → (p.getD 3 0).toNat ≤ 60 ∧ p.length = 4 + (p.getD 3 0).toNat
  alert : kind = 0x05 → p.length = 21

/-- What a receiver keeps: fewer than 64 IDLE in a run, fewer than four violations among the last 63 symbols, a frame of no more than
513 bytes, and nothing of the other link state (R187, R188). -/
structure Receiver.WellFormed (r : Receiver) (up : Bool) : Prop where
  run : r.idleRun ≤ 63
  window : r.recent.length ≤ 63
  violations : r.recent.count true ≤ 3
  frame : ∀ f, r.frame = some f → f.bytes.length ≤ 513
  whileUp : up = true → r.idleRun = 0
  whileDown : up = false → r.recent = [] ∧ r.frame = none

/-- Both ports' receivers are well formed for their link states (R187, R188). -/
def ReceiversSound (s : State) : Prop := ∀ p : Port, (s.rx p).WellFormed (s.up p)

/-- The patterns that port U's receiver takes in a row. -/
def takenU : Instr → List Pattern
  | .frameReceived .u line last _ => line ++ [last]
  | .frameOverlong ⟨.u, line⟩ => line
  | .portUp .u line => line
  | .portUDown (.violations line) => line
  | .frameTransmitEnd ⟨.u, some (.violations line)⟩ => line
  | _ => []

/-- A segment of this number and index opens a cycle (R25, R28, R29). -/
def OpensCycle (s : State) (n : CycleNo) (i : Nat) : Prop :=
  (s.tracker.state = .nosync ∧ i = 0) ∨ (s.tracker.state ≠ .nosync ∧ ahead n s.tracker.lastCycle = true)

/-! ### Terms for refused writes (R17, R175) -/

/-- The width of a channel entry's field (R175). -/
def channelFieldWidth (n : Nat) : Nat := if n = 4 then 2 else if n ∈ [5, 6, 7, 8, 9, 10, 20] then 3 else 1

/-- The width of a field of the cycle parameters record (R175). -/
def cycleFieldWidth (n : Nat) : Nat := if n = 2 then 1 else 2

/-- A value that R17 refuses for a channel entry's field, in its wire form. -/
def RefusedChannelValue (n : Nat) (v : List Byte) : Prop :=
  (∃ b : Byte, v = [b] ∧
    ((n ∈ [1, 16] ∧ 2 < b.toNat) ∨ (n = 2 ∧ b.toNat ∉ [1, 2, 4, 8, 16]) ∨ (n = 3 ∧ 15 < b.toNat) ∨
      (n = 11 ∧ 64 ≤ b.toNat) ∨ (n ∈ [12, 17, 18] ∧ 1 < b.toNat) ∨ (n ∈ [13, 14] ∧ (b.toNat = 0 ∨ 16 < b.toNat)) ∨ (n = 15 ∧ b.toNat = 0) ∨
      (n = 19 ∧ 8 ≤ b.toNat ∧ b.toNat ≤ 254))) ∨
    ∃ a b c : Byte, v = [a, b, c] ∧ n = 10 ∧ 128 ≤ a.toNat

/-- A value that R17 refuses for a group entry's field. -/
def RefusedGroupValue (n : Nat) (v : List Byte) : Prop := ∃ b : Byte, v = [b] ∧ n ∈ [1, 3, 4] ∧ 1 < b.toNat

/-- A value that R17 refuses for a field of the cycle parameters record, in its wire form. -/
def RefusedCycleValue (n : Nat) (v : List Byte) : Prop :=
  (∃ b : Byte, v = [b] ∧ n = 2 ∧ (b.toNat = 0 ∨ 16 < b.toNat)) ∨
    ∃ a b : Byte, v = [a, b] ∧ ((n = 1 ∧ a.toNat * 256 + b.toNat < 10) ∨ (n = 3 ∧ 1024 ≤ a.toNat * 256 + b.toNat))

/-- The field list of some whole items, an item of number n with the bytes v, and what follows it: the argument bytes behind a write's
subject (R16, R175). -/
def itemsAround (items : List Byte) (n : Nat) (v after : List Byte) : List Byte := items ++ BitVec.ofNat 8 n :: (v ++ after)

/-- The three answers of a write to a bank that is not open to writes (R16, R124). -/
structure ClosedToWrites (s : State) (c : Command) (rest : List Command) (i : Instr) : Prop where
  busy : s.tables.copyInFlight = true → exec i s = answers c .busy .empty (taken s rest)
  commit : ∀ t, s.tables.copyInFlight = false → s.tables.commit = some t →
    exec i s = answers c .pending (.pendingCommit t) (taken s rest)
  mode : s.tables.copyInFlight = false → s.tables.commit = none → s.tables.modeChange = true →
    exec i s = answers c .pending .pendingMode (taken s rest)

/-- The staging bank is open to writes (R16). -/
structure OpenToWrites (s : State) : Prop where
  copy : s.tables.copyInFlight = false
  commit : s.tables.commit = none
  mode : s.tables.modeChange = false

/-- The rows of the commands with the code that each takes (R176 to R182). -/
def rowCodes : List (Instr × Byte) :=
  [(.identify, 0x01), (.status, 0x02), (.readChannel, 0x10), (.writeChannel, 0x11), (.readGroup, 0x12), (.writeGroup, 0x13),
    (.readCycle, 0x14), (.writeCycle, 0x15), (.commit, 0x20), (.cancel, 0x21), (.bypass, 0x22), (.channelState, 0x30),
    (.groupState, 0x31), (.trip, 0x32), (.rearm, 0x33), (.logRead, 0x40), (.logAck, 0x41), (.logClear, 0x42), (.test, 0x50),
    (.testResult, 0x51), (.resetRuntime, 0x60), (.resetLog, 0x60), (.resetDevice, 0x60)]

/-- The work on some samples one after another: the state after it, and the outgoing entries (R41, R45, R50). -/
def samplesWork (l : List SampleEntry) (s : State) : State × List SampleEntry :=
  l.foldl (fun p x => ((sampleWork x p.1).1, p.2 ++ (sampleWork x p.1).2.toList)) (s, [])

/-- The SEG that the tracker is taking shows these entries in the Forward Queue, complete or not (R65, R189). -/
def showing (g : Segment) (l : List SampleEntry) (complete : Bool) (s : State) : State :=
  { s with
    forward := s.forward.map fun q =>
      if q.underway then { q with frame := .seg { g with entries := l }, complete := complete } else q }

/-! ### Terms for the events between the samples of a segment (R65, R82, R95, R171; log 6) -/

/-- The state that a row leaves. -/
def ran (i : Instr) (s : State) : State :=
  match exec i s with
  | .next t => t
  | .fault _ => s
  | .refused _ => s

/-- The row that takes the command at the head of the Command FIFO, whichever it is; with an empty FIFO a row that takes nothing (R171). -/
def headRow (s : State) : Instr :=
  match s.cmdFifo with
  | [] => .status
  | c :: _ =>
    if c.code = 0x60 then if c.args = [1] then .resetLog else if c.args = [2] then .resetDevice else .resetRuntime
    else ((rowCodes.find? fun p => p.2 == c.code).map (·.1)).getD .unknownCommand

/-- The row that an event between two samples is. Patterns of port U that would bring an event to the tracker are not taken there, so
that nothing is (R41; log 6). -/
def betweenRow (b : Between) (s : State) : Instr :=
  match b with
  | .executorTakes => headRow s
  | .tripNFall => .tripNFall
  | .tripNRise => .tripNRise
  | .bankCopyComplete => .bankCopyComplete
  | .transmitEndU => .frameTransmitEnd ⟨.u, none⟩
  | .transmitEndD down => .frameTransmitEnd ⟨.d, down⟩
  | .portDLine line => .portDDown (.violations line)
  | .portDSignalLoss => .portDDown .lossOfSignal
  | .portULine line =>
    .portUp .u (if (s.rxU.run s.upU (line.map symbolOf)).2.any (fun e => reachesTracker e.1 s) then [] else line)

/-- Some events in order, each the row that it is. -/
def happen (l : List Between) (s : State) : State := l.foldl (fun u b => ran (betweenRow b u) u) s

/-- The SEG that the tracker is taking shows these entries where it is still queued, and is complete once its work is over (R65, R189). -/
def reshown (g : Segment) (l : List SampleEntry) (finished : Bool) (s : State) : State :=
  { s with
    forward := s.forward.map fun q =>
      if q.underway then { q with frame := .seg { g with entries := l }, complete := q.complete || finished } else q }

/-- The work on a segment's samples, `out` being the outgoing entries so far: before each sample the events of its list, and the lists
behind the last sample's after all of it. The queued SEG shows the outgoing entries and those still to come, and is complete with the last
sample's work (R41, R45, R50, R65, R189); the transmitters choose at the end of each act (R192; log 5). -/
def segmentWork (g : Segment) : List SampleEntry → List SampleEntry → List (List Between) → State → State
  | _, [], between, s => happen between.flatten s
  | out, x :: rest, between, s =>
    let p := sampleWork x (happen (between.headD []) s)
    segmentWork g (out ++ p.2.toList) rest between.tail (settle (reshown g (out ++ p.2.toList ++ rest) rest.isEmpty p.1))

/-- A part on whose port D a frame is being sent: no forward frame leaves the queue meanwhile (R192). -/
structure LineBusy (s : State) : Prop where
  up : s.upD = true
  sending : s.txD.isSome

end Sys2Proof.Machine
end

