-- ==== Sys2Proof/Certificates/Slice0/Obligations.lean ====
section
/-! DEFINITION. The statements about the model, each with the rules of spec/ it rests on. "log n" is notes/assumptions/n.md. A row's
own effect is written before `settle`, which is what the transmitters do at the end of the act (R190, R192; log 5). -/

open Sys2Proof Sys2Proof.Machine

/-! ### The queue of steps, power-on and the whole machine -/

/-- A step is the step at the front of the queue, run with the queue's rest; an empty queue idles (log 2: the model's choice). -/
def Obligations.StepRunsTheFrontCommand : Prop :=
  (∀ (i : Instr) (s : State), step { s with pending := i :: s.pending } = exec i s) ∧
    ∀ s : State, s.pending = [] → step s = .next s

/-- No rule of the spec stops the part: every step has a next state. That no step touches the steps that wait, POWER_ON_RESET included,
is the model's choice about its own queue (log 17). -/
def Obligations.EveryCommandAnswersNext : Prop :=
  ∀ (i : Instr) (s : State), ∃ t, exec i s = .next t ∧ t.pending = s.pending

/-- Power-on reset: every block at its power-on values, every field of every entry and record, the straps and the TRIP_N level sampled
(R3, R6, R11, R13, R14, R22, R68, R102, R108, R123, R141, R157, R169, R178, R187, R189 to R192). That no frame is on the lines is log
12's reading, and that the waiting steps stand is the model's choice (log 17). -/
def Obligations.PowerOnResetLeavesThePowerOnState : Prop :=
  ∀ (straps : BitVec 6) (level : Bool) (s : State), ∃ t,
    exec (.powerOnReset straps level) s = .next t ∧
      t.nodeAddr = straps ∧ t.tripHigh = level ∧ t.faultLow = false ∧ t.upU = false ∧ t.upD = false ∧
      t.rxU = ⟨0, [], none⟩ ∧ t.rxD = ⟨0, [], none⟩ ∧
      t.txD = none ∧ t.txU = none ∧ t.forward = [] ∧ t.ret = [] ∧ t.replies = [] ∧ t.alertSlot = none ∧ t.slotOwed = false ∧
      t.counters = ⟨0, 0, 0, 0, 0, 0, 0, 0⟩ ∧ t.cmdFifo = [] ∧ t.pending = s.pending ∧
      t.tables.active = .a ∧ t.tables.commit = none ∧ t.tables.modeChange = false ∧ t.tables.copyInFlight = false ∧
      t.tables.deviceMode = .bypass ∧ t.tracker.state = .nosync ∧ t.tracker.lastCycle = 0 ∧ t.tracker.lastIndex = 0 ∧
      t.tracker.timer = none ∧ t.tracker.consecutiveLost = 0 ∧ t.tracker.lostTotal = 0 ∧ t.log = ⟨[], 0, 0⟩ ∧
      t.test = ⟨none, ⟨.none, none, none, none, none, none⟩⟩ ∧
      (∀ c : Chan, t.tables.marks.channels[c] = false ∧ t.tracker.seen[c] = false ∧ t.repeats[c] = false ∧
        t.channel c = ⟨.idle, [], 0, 0, none, none, false, none, none⟩) ∧
      (∀ g : Grp, t.tables.marks.groups[g] = false ∧ t.group g = ⟨.armed, none, none, none, 0⟩) ∧ t.tables.marks.cycle = false ∧
      ∀ l : BankLetter,
        (∀ c : Chan, (t.tables.bank l).channels[c] =
          { mode := .off, period := 1, phase := 0, gain := 16384, offset := 0, lowLimit := BitVec.ofInt 24 (-8388608),
            highLimit := 8388607, warnLow := BitVec.ofInt 24 (-8388608), warnHigh := 8388607, rateLimit := 0,
            classes := ⟨true, true, true, true, true, true⟩, satIsFault := false, window := 4, threshold := 3, recovery := 8,
            reaction := .safe, holdSuspect := false, trip := false, group := none, safeValue := 0 }) ∧
        (∀ g : Grp, (t.tables.bank l).groups[g] = { autoRearm := false, holdoff := 4, pinBound := true, linkBound := true }) ∧
        (t.tables.bank l).cycle =
          ⟨1000, 3, { fault := true, recover := false, warn := false, trip := true, rearm := false, link := true,
                      seq := false, dup := false, commit := false, mode := false }⟩

/-- The cycle parameters record after power-on reset and after a RESET DEVICE (R13). -/
def Obligations.CycleParametersTakeTheirDefaults : Prop :=
  (∀ (straps : BitVec 6) (level : Bool) (s : State), ∃ t, exec (.powerOnReset straps level) s = .next t ∧
    ∀ l : BankLetter, (t.tables.bank l).cycle =
      ⟨1000, 3, { fault := true, recover := false, warn := false, trip := true, rearm := false, link := true,
                  seq := false, dup := false, commit := false, mode := false }⟩) ∧
    ∀ (s : State) (c : Command) (rest : List Command), AtHead s c rest 0x60 → c.args = [2] → ∃ t,
      exec .resetDevice s = .next t ∧ ∀ l : BankLetter, (t.tables.bank l).cycle =
        ⟨1000, 3, { fault := true, recover := false, warn := false, trip := true, rearm := false, link := true,
                    seq := false, dup := false, commit := false, mode := false }⟩

/-- The state right after power-on meets every invariant of the model. -/
def Obligations.ResetMeetsEveryInvariant : Prop :=
  QueuesBounded State.reset ∧ ForwardSettled State.reset ∧ ReceiversSound State.reset ∧ FaultPinHonest State.reset ∧
    GroupsSound State.reset ∧ LogSound State.reset.log ∧ PendingSound State.reset ∧ StagingAgrees State.reset.tables ∧
    TablesInRange State.reset.tables ∧ TablesValid State.reset.tables ∧ TimerSound State.reset ∧ LossSound State.reset ∧
    ChannelsSound State.reset

/-- The node address keeps its value until the next power-on reset, through RESET DEVICE and every other step (R169). The active bank's
content, the selector and the device mode change at a power-on reset, at a RESET DEVICE and at the cycle open of a frame received on
port U (R3, R4, R135, R137, R184): no other step changes them, and a frame of port U that opens no cycle does not, where no command is
taken between its samples. Writes and the bank copy reach the staging bank alone. -/
def Obligations.AddressAndActiveBankChangeOnlyWhereSaid : Prop :=
  ∀ (i : Instr) (s t : State), (∀ straps level, i ≠ .powerOnReset straps level) → exec i s = .next t →
    let same := t.tables.active = s.tables.active ∧ t.tables.activeBank = s.tables.activeBank ∧
      t.tables.deviceMode = s.tables.deviceMode
    t.nodeAddr = s.nodeAddr ∧
    (i ≠ .resetDevice →
      (∀ r f ending rest, (s.rx .u).run (s.up .u) ((takenU i).map symbolOf) ≠ (r, some (.frame f ending, rest))) → same) ∧
    (∀ line last between f ending r, i = .frameReceived .u line last between →
      Delivers s .u (line ++ [last]) f ending r → (∀ l ∈ between, Between.executorTakes ∉ l) →
      (∀ p, receive f ending = .good 0x01 p → ¬ OpensCycle s (readSegment p).cycle (readSegment p).index) → same)

/-- A command answered with a status other than OK changes no state (R174), whatever its code. -/
def Obligations.RefusedCommandChangesNothing : Prop :=
  ∀ (code : Byte) (run : List Byte → State → Answer) (args : List Byte) (s : State),
    catalogue code = some run → (run args s).status ≠ .ok → (run args s).state = s

/-! ### Numbers -/

/-- The three words in which cycle numbers are compared: A is behind B when `ahead B A` (R2). -/
def Obligations.CycleNumbersCompareModulo : Prop :=
  (∀ a b : CycleNo, ahead a b = true ↔
      1 ≤ (a.toNat + 65536 - b.toNat) % 65536 ∧ (a.toNat + 65536 - b.toNat) % 65536 ≤ 32767) ∧
    (∀ c n : CycleNo, reached c n = true ↔ ¬ ahead n c = true) ∧
    (∀ a : CycleNo, ahead a a = false ∧ reached a a = true) ∧
    ahead 3 65534 = true ∧ reached 10 10 = true ∧ reached 10 9 = true ∧ reached 10 11 = false

/-- Conditioning is exact: the product rounded to the nearest integer, halves away from zero, the offset added, and one saturation
of the sum; a sample that raises QUAL is not conditioned (R54, R55). -/
def Obligations.ConditioningIsExact : Prop :=
  ∀ (e : ChannelEntry) (base : Option Sample) (x : SampleEntry),
    (raisesQual e (readQuality x.quality) = true → (checkOutcome e base x).conditioned = none) ∧
      (raisesQual e (readQuality x.quality) = false → ∃ (q : Int) (v : Sample),
        2 * (16384 * q - x.value.toInt * e.gain.toInt).natAbs ≤ 16384 ∧
        (2 * (16384 * q - x.value.toInt * e.gain.toInt).natAbs = 16384 →
          (x.value.toInt * e.gain.toInt).natAbs < (16384 * q).natAbs) ∧
        (2 * (16384 * q - x.value.toInt * e.gain.toInt).natAbs = 16384 ↔ x.value.toInt * e.gain.toInt % 16384 = 8192) ∧
        v.toInt = max (-8388608) (min 8388607 (q + e.offset.toInt)) ∧
        (checkOutcome e base x).conditioned = some v)

/-- RATE is raised exactly when its four conditions hold, the distance worked out exactly against the baseline as it stood (R58). -/
def Obligations.RateRaisedExactlyWhen : Prop :=
  ∀ (e : ChannelEntry) (base : Option Sample) (x : SampleEntry) (v : Sample), (checkOutcome e base x).conditioned = some v →
    ((checkOutcome e base x).classes.rate = true ↔
      e.classes.rate = true ∧ 0 < e.rateLimit ∧ ∃ b, base = some b ∧ e.rateLimit < (v.toInt - b.toInt).natAbs)

/-- The quality codes as read, the table of QUAL, and the classes of an outcome but for RATE: HIGH and LOW exactly as R57 says, and never
STALE or WARN, so that a sample of which no check is raised has the empty set (R52, R53, R54, R57, R63). -/
def Obligations.QualityAndLimitsDecideTheClasses : Prop :=
  ∀ (e : ChannelEntry) (base : Option Sample) (x : SampleEntry),
    ((checkOutcome e base x).quality =
        if x.quality = 0 then .ok else if x.quality = 1 then .sat else if x.quality = 3 then .subst else .bad) ∧
      (checkOutcome e base x).classes.stale = false ∧ (checkOutcome e base x).classes.warn = false ∧
      ((checkOutcome e base x).classes.qual = true ↔
        e.classes.qual = true ∧ x.quality ≠ 0 ∧ (x.quality = 1 → e.satIsFault = true)) ∧
      ((checkOutcome e base x).classes.qual = true → (checkOutcome e base x).classes = .qualOnly) ∧
      (∀ v, (checkOutcome e base x).conditioned = some v →
        ((checkOutcome e base x).classes.high = true ↔ e.classes.high = true ∧ e.highLimit.toInt < v.toInt) ∧
        ((checkOutcome e base x).classes.low = true ↔ e.classes.low = true ∧ v.toInt < e.lowLimit.toInt) ∧
        (e.lowLimit.toInt ≤ e.highLimit.toInt →
          ¬ ((checkOutcome e base x).classes.high = true ∧ (checkOutcome e base x).classes.low = true)))

/-! ### Ports, transmitters and queues -/

/-- A DOWN port comes UP exactly where its present run and the symbols taken make 64 consecutive IDLE, and else keeps the run that these
symbols end with, which goes on in the port's next row (R187; log 7). A transmission ends: the transmitter is free, and on port D an
ending mark sets slot owed (R192, R193). Nothing else changes but what the transmitters then do. An idle transmitter ends nothing
(log 4). -/
def Obligations.PortUpAndTransmitEndTouchOnlyTheirPort : Prop :=
  ∀ s : State,
    (∀ (p : Port) (line : List Pattern), s.up p = false → (s.rx p).idleRun ≤ 63 →
      (IdleRun (runWith (s.rx p) line) → exec (.portUp p line) s = .next (settle (match p with
        | .u => { s with upU := true, rxU := ⟨0, [], none⟩ }
        | .d => { s with upD := true, rxD := ⟨0, [], none⟩ }))) ∧
      (¬ IdleRun (runWith (s.rx p) line) → exec (.portUp p line) s = .next (settle (s.setRx p
        (if line = [] then s.rx p else ⟨idleTail (runWith (s.rx p) line), [], none⟩))))) ∧
    exec (.frameTransmitEnd ⟨.u, none⟩) s = .next (settle { s with txU := none }) ∧
    (∀ f, s.txD = some f →
      exec (.frameTransmitEnd ⟨.d, none⟩) s = .next (settle { s with txD := none, slotOwed := s.slotOwed || f.ending })) ∧
    (s.txD = none → exec (.frameTransmitEnd ⟨.d, none⟩) s = .next (settle s))

/-- Port D goes DOWN on loss of signal or at the fourth code violation within 64 symbols (R187): the frame on the line is cut off, replies
and ALERT are emptied, and each queued forward frame is discarded at its turn, a discarded ending mark setting slot owed. Taken between
the end of a transmission and the next choice, it discards that choice too (R192, R194). Symbols without a cause change only what the
receiver keeps; a port already DOWN does not go DOWN (log 4). -/
def Obligations.PortDDownCutsOffAndEmpties : Prop :=
  ∀ s : State,
    (∀ c : DownCause, SignalFails s .d c → s.upD = true → ForwardSettled s →
      let down := returnSend
        { s with upD := false, rxD := ⟨0, [], none⟩, txD := none, replies := [], alertSlot := none, forward := [],
                 slotOwed := s.forward.any (·.ending) }
      exec (.portDDown c) s = .next down ∧ exec (.frameTransmitEnd ⟨.d, some c⟩) s = .next down) ∧
    (∀ (l : List Pattern) (x : Pattern) (r : Receiver), s.upD = true → s.rxD.recent.length ≤ 63 → TakesQuietly s .d l r →
      exec (.portDDown (.violations l)) s = .next (settle { s with rxD := r }) ∧
      ((∃ r', Brings s .d (l ++ [x]) .goesDown r') ↔ 4 ≤ (lastMarks s.rxD ((l ++ [x]).map symbolOf)).count true)) ∧
    (s.upD = false → exec (.portDDown .lossOfSignal) s = .next (settle s))

/-- Port U goes DOWN on loss of signal or at the fourth code violation within 64 symbols (R187): its frame is cut off and the Return
Queue discarded; a tracker in OPEN or CLOSED loses the link at once: LINK LOST, NOSYNC, the timer stopped, and in ACTIVE every
link_bound group requested without a cycle (R38, R39, R109, R195). In NOSYNC the tracker is unaffected. It may come between the end of
a transmission and the next choice. Symbols without a cause change only what the receiver keeps; a port already DOWN does not go DOWN
(log 4). -/
def Obligations.PortUDownLosesTheLink : Prop :=
  ∀ (s : State) (c : DownCause),
    (∀ (l : List Pattern) (x : Pattern) (r : Receiver), s.upU = true → s.rxU.recent.length ≤ 63 → TakesQuietly s .u l r →
      exec (.portUDown (.violations l)) s = .next (settle { s with rxU := r }) ∧
      ((∃ r', Brings s .u (l ++ [x]) .goesDown r') ↔ 4 ≤ (lastMarks s.rxU ((l ++ [x]).map symbolOf)).count true)) ∧
    (s.upU = false → exec (.portUDown .lossOfSignal) s = .next (settle s)) ∧
    (SignalFails s .u c → s.upU = true → exec (.frameTransmitEnd ⟨.u, some c⟩) s = exec (.portUDown c) s) ∧
    (SignalFails s .u c → s.upU = true → s.tracker.state = .nosync →
      exec (.portUDown c) s = .next (settle { s with upU := false, rxU := ⟨0, [], none⟩, txU := none }) ∧
      (settle { s with upU := false, rxU := ⟨0, [], none⟩, txU := none }).ret = []) ∧
    (SignalFails s .u c → s.upU = true → s.tracker.state ≠ .nosync → ∃ u : State,
      exec (.portUDown c) s = .next (settle u) ∧ (settle u).ret = [] ∧
        u = { s with upU := false, rxU := ⟨0, [], none⟩, txU := none,
                     tracker := { s.tracker with state := .nosync, timer := none },
                     groups := u.groups, faultLow := u.faultLow, log := u.log, alertSlot := u.alertSlot } ∧
        (∀ g : Grp, u.group g =
          if s.tables.deviceMode = .active ∧ (s.groupEntry g).linkBound = true then afterRequest s g .link none none
          else s.group g) ∧
        (s.log.records.length ≤ 55 → KeepsRecords s.log u.log ∧
          newRecords s.log u.log =
            (some s.tracker.lastCycle, .linkLost s.tracker.consecutiveLost) ::
              tripRecords s (fun g => (s.groupEntry g).linkBound) .link none))

/-- A frame that reaches its 514th byte fails the format of its port, one that holds a code violation too (log 22), and a frame that fails
its tests is discarded with its port's counter, the first failure alone counting. The check fails on a second START, a code violation, a
wrong check word, and on fewer than three bytes (log 8: the model's choice); the format on a length field outside 4..508, a byte count
that does not fit it, or a payload without the form of its kind. A frame in progress when its port goes DOWN is not counted, and a port
that is DOWN receives nothing (R187, R188, R196). -/
def Obligations.BadFramesAreOnlyCounted : Prop :=
  (∀ (s : State) (line : List Pattern) (r : Receiver),
    (s.upU = true → Brings s .u line .overlong r → exec (.frameOverlong ⟨.u, line⟩) s = .next (settle { s with
      rxU := r, counters := { s.counters with uFormatErrors := min 65535 (s.counters.uFormatErrors + 1) } })) ∧
    (s.upD = true → Brings s .d line .overlong r → exec (.frameOverlong ⟨.d, line⟩) s = .next (settle { s with
      rxD := r, counters := { s.counters with dFormatErrors := min 65535 (s.counters.dFormatErrors + 1) } }))) ∧
  (∀ (s : State) (line : List Pattern) (last : Pattern) (f : Arriving) (e : FrameEnd) (r : Receiver) (b : List (List Between)),
    (Delivers s .u (line ++ [last]) f e r →
      (receive f e = .badCheck → exec (.frameReceived .u line last b) s = .next (settle { s with
        rxU := r, counters := { s.counters with uCheckErrors := min 65535 (s.counters.uCheckErrors + 1) } })) ∧
      (receive f e = .badFormat → exec (.frameReceived .u line last b) s = .next (settle { s with
        rxU := r, counters := { s.counters with uFormatErrors := min 65535 (s.counters.uFormatErrors + 1) } }))) ∧
    (Delivers s .d (line ++ [last]) f e r →
      (receive f e = .badCheck → exec (.frameReceived .d line last b) s = .next (settle { s with
        rxD := r, counters := { s.counters with dCheckErrors := min 65535 (s.counters.dCheckErrors + 1) } })) ∧
      (receive f e = .badFormat → exec (.frameReceived .d line last b) s = .next (settle { s with
        rxD := r, counters := { s.counters with dFormatErrors := min 65535 (s.counters.dFormatErrors + 1) } }))) ∧
    (Brings s .u (line ++ [last]) .goesDown r →
      exec (.frameReceived .u line last b) s = exec (.portUDown (.violations (line ++ [last]))) s) ∧
    (Brings s .d (line ++ [last]) .goesDown r →
      exec (.frameReceived .d line last b) s = exec (.portDDown (.violations (line ++ [last]))) s) ∧
    (∀ p : Port, s.up p = false → TakesQuietly s p (line ++ [last]) r →
      exec (.frameReceived p line last b) s = .next (settle (s.setRx p r)) ∧
      exec (.frameOverlong ⟨p, line ++ [last]⟩) s = .next (settle (s.setRx p r)))) ∧
  ∀ (f : Arriving) (e : FrameEnd),
    let n := f.bytes.length
    (receive f e = .badCheck ↔ e = .secondStart ∨ f.violated = true ∨ n < 3 ∨
      f.bytes.drop (n - 2) ≠ byte2 (checkWord (f.bytes.take (n - 2))).toNat) ∧
    (∀ kind p, receive f e = .good kind p ↔ e = .endSymbol ∧ f.violated = false ∧ f.bytes = frameBytes kind p ∧ 4 ≤ p.length ∧
      p.length ≤ 508 ∧ FormOf kind p) ∧
    (receive f e = .badFormat ↔ receive f e ≠ .badCheck ∧ ∀ kind p, receive f e ≠ .good kind p)

/-- The line code and the SEG layout. Every pattern of a byte or a control symbol is read as it, every other pattern is a code violation
(R186, R187; the tables of the code are log 21's). A frame sent in the line code is delimited whole, byte for byte (R188, R193). A SEG
frame of up to 48 entries, sent byte for byte, is received good and read back whole, so no bit of its layout is dropped; and a good SEG
frame held in its parsed form leaves as the very bytes that were received (R188, R193, R196). The frames that this part builds are received
good: a FILL of 1 to 96 entries, its cycle number, count and entries read back; an ALERT of 21 bytes, absent fields as zero bytes with
their flag clear; a REPLY of up to 504 bytes of result behind its four fields (R188, R196). A fault log record is 14 bytes: sequence, kind,
a presence byte whose bits 0..5 mark cycle and f1 to f5, and those fields, zero where absent (R197). -/
def Obligations.SegmentSurvivesTheWire : Prop :=
  ((∀ (d : Disparity) (b : Byte), symbolOf (dataPattern d b) = .data b) ∧
    (∀ d : Disparity, symbolOf (idlePattern d) = .idle ∧ symbolOf (startPattern d) = .start ∧
      symbolOf (finishPattern d) = .finish) ∧
    ∀ q : Pattern, symbolOf q = .violation ↔
      ∀ d : Disparity, q ≠ idlePattern d ∧ q ≠ startPattern d ∧ q ≠ finishPattern d ∧ ∀ b : Byte, q ≠ dataPattern d b) ∧
  (∀ (r : Receiver) (d : Disparity) (l : List Byte), r.frame = none → r.recent.length ≤ 63 → r.recent.count true ≤ 3 →
    l.length ≤ 513 →
    r.run true ((lineOf d l).map symbolOf) =
      ({ r with recent := (List.replicate (l.length + 2) false ++ r.recent).take 63 },
        some (.frame ⟨l, false⟩ .endSymbol, []))) ∧
  (∀ g : Segment, g.entries.length ≤ 48 →
    receive ⟨(Frame.seg g).bytes, false⟩ .endSymbol = .good 0x01 g.payload ∧ readSegment g.payload = g) ∧
  (∀ (f : Arriving) (e : FrameEnd) (p : List Byte), receive f e = .good 0x01 p → (Frame.seg (readSegment p)).bytes = f.bytes) ∧
  (∀ (n : CycleNo) (l : List SampleEntry), 1 ≤ l.length → l.length ≤ 96 → ∃ p,
    receive ⟨(Frame.fill n l).bytes, false⟩ .endSymbol = .good 0x02 p ∧ p.length = 3 + 5 * l.length ∧
      word2 (p.getD 0 0) (p.getD 1 0) = n ∧ (p.getD 2 0).toNat = l.length ∧ readEntries l.length (p.drop 3) = l) ∧
  (∀ a : Alert, a.logCount ≤ 64 → a.lost ≤ 65535 → ∃ p,
    receive ⟨(Frame.alert a).bytes, false⟩ .endSymbol = .good 0x05 p ∧ p.length = 21 ∧ (p.getD 0 0).toNat = a.source.toNat ∧
      (p.getD 1 0).toNat = (if a.newest.isSome then 1 else 0) + (if a.record.isSome then 2 else 0) ∧
      word2 (p.getD 2 0) (p.getD 3 0) = a.newest.getD 0 ∧ (p.getD 4 0).toNat = a.logCount ∧
      (word2 (p.getD 5 0) (p.getD 6 0)).toNat = a.lost ∧
      (∀ r, a.record = some r → p.drop 7 = r.bytes) ∧ (a.record = none → p.drop 7 = List.replicate 14 0)) ∧
  (∀ r : Reply, r.result.bytes.length ≤ 504 → ∃ p,
    receive ⟨(Frame.reply r).bytes, false⟩ .endSymbol = .good 0x04 p ∧ (p.getD 0 0).toNat = r.source.toNat ∧ p.getD 1 0 = r.tag ∧
      p.getD 2 0 = r.code ∧ (p.getD 3 0).toNat = r.status.code ∧ p.drop 4 = r.result.bytes) ∧
  ∀ r : LogRecord,
    let b := fun i => r.bytes.getD i 0
    let f := r.body.fields
    r.bytes.length = 14 ∧ word2 (b 0) (b 1) = r.sequence ∧ (b 2).toNat = r.body.kindCode ∧ r.body.kindCode ≤ 9 ∧
      (∀ i, (b 3).getLsbD i =
        [r.cycle.isSome, f.f1.isSome, f.f2.isSome, f.f3.isSome, f.f4.isSome, f.f5.isSome].getD i false) ∧
      word2 (b 4) (b 5) = r.cycle.getD 0 ∧ b 6 = BitVec.ofNat 8 (f.f1.getD 0) ∧ b 7 = BitVec.ofNat 8 (f.f2.getD 0) ∧
      word3 (b 8) (b 9) (b 10) = BitVec.ofNat 24 (f.f3.getD 0) ∧ b 11 = BitVec.ofNat 8 (f.f4.getD 0) ∧
      word2 (b 12) (b 13) = BitVec.ofNat 16 (f.f5.getD 0)

/-- A good CMD frame of port D. For this node it joins the Command FIFO at its tail, or is discarded and counted when 4 are held (R168,
R169). A broadcast joins the Return Queue unaltered where a place is free, and, whatever became of that, is offered to the FIFO if
its code is COMMIT, CANCEL, BYPASS, TRIP, REARM or RESET, and is else counted as dropped (R170, R190). -/
def Obligations.CommandFramesAreSortedAndAdmitted : Prop :=
  ∀ (s : State) (tag code : Byte) (args : List Byte) (line : List Pattern) (last : Pattern) (r : Receiver)
    (b : List (List Between)), args.length ≤ 60 →
    let frame := fun dest : Byte => frameBytes 0x03 (dest :: tag :: code :: BitVec.ofNat 8 args.length :: args)
    (s.nodeAddr ≠ 63 → Delivers s .d (line ++ [last]) ⟨frame (s.nodeAddr.setWidth 8), false⟩ .endSymbol r →
      exec (.frameReceived .d line last b) s =
        .next (settle
          (if s.cmdFifo.length < 4 then { s with rxD := r, cmdFifo := s.cmdFifo ++ [⟨false, tag, code, args⟩] }
           else { s with rxD := r, counters :=
             { s.counters with droppedCommands := min 65535 (s.counters.droppedCommands + 1) } }))) ∧
    (Delivers s .d (line ++ [last]) ⟨frame 63, false⟩ .endSymbol r →
      let admitted := code ∈ ([0x20, 0x21, 0x22, 0x32, 0x33, 0x60] : List Byte) ∧ s.cmdFifo.length < 4
      exec (.frameReceived .d line last b) s =
        .next (settle
          { s with
            rxD := r
            ret := if s.ret.length < 4 then s.ret ++ [frame 63] else s.ret
            cmdFifo := if admitted then s.cmdFifo ++ [⟨true, tag, code, args⟩] else s.cmdFifo
            counters :=
              { s.counters with
                returnOverruns :=
                  if s.ret.length < 4 then s.counters.returnOverruns else min 65535 (s.counters.returnOverruns + 1)
                droppedCommands :=
                  if admitted then s.counters.droppedCommands else min 65535 (s.counters.droppedCommands + 1) } }))

/-- A good frame of port D that is no command for this node, and no broadcast, passes to the Return Queue byte for byte as received,
or is counted when 4 are held (R169, R188, R190). -/
def Obligations.OtherFramesOfPortDPassToTheReturnQueue : Prop :=
  ∀ (s : State) (line : List Pattern) (last : Pattern) (f : Arriving) (e : FrameEnd) (r : Receiver) (b : List (List Between))
    (kind : Byte) (p : List Byte), Delivers s .d (line ++ [last]) f e r → receive f e = .good kind p →
    (kind = 0x03 → ∀ d, p.head? = some d → d ≠ 63 ∧ d ≠ s.nodeAddr.setWidth 8) →
    exec (.frameReceived .d line last b) s =
      .next (settle
        (if s.ret.length < 4 then { s with rxD := r, ret := s.ret ++ [f.bytes] }
         else { s with rxD := r, counters := { s.counters with returnOverruns := min 65535 (s.counters.returnOverruns + 1) } }))

/-- A good frame of port U joins the tail of the Forward Queue while fewer than 4 ordinary places are taken, and is else discarded
before any other block sees it; one that is no SEG passes byte for byte as received (R23, R188, R189, R193). -/
def Obligations.FramesOfPortUJoinTheForwardQueue : Prop :=
  ∀ (s : State) (line : List Pattern) (last : Pattern) (f : Arriving) (e : FrameEnd) (r : Receiver) (b : List (List Between))
    (kind : Byte) (p : List Byte), Delivers s .u (line ++ [last]) f e r → receive f e = .good kind p →
    (kind ≠ 0x01 → placesTaken s.forward < 4 →
      exec (.frameReceived .u line last b) s =
        .next (settle { s with rxU := r, forward := s.forward ++ [⟨.passed f.bytes, false, true, false, false⟩] })) ∧
    (4 ≤ placesTaken s.forward →
      exec (.frameReceived .u line last b) s =
        .next (settle { s with rxU := r, counters :=
          { s.counters with forwardOverruns := min 65535 (s.counters.forwardOverruns + 1) } }))

/-- What the transmitters do at the end of an act touches the frames on the lines, the queues that feed them and slot owed, and
nothing else, and leaves them no further choice to make (R190, R192). While port U is UP its free transmitter begins the oldest frame of
the Return Queue, byte for byte, and frees its place; with a frame on the line, or none queued, line and queue stand. While it is DOWN
every return frame is discarded at its turn, and none begins (R190, R195). -/
def Obligations.TransmittersTouchOnlyTheirQueues : Prop :=
  ∀ s : State,
    settle s = { s with txD := (settle s).txD, txU := (settle s).txU, forward := (settle s).forward, ret := (settle s).ret,
                        replies := (settle s).replies, alertSlot := (settle s).alertSlot, slotOwed := (settle s).slotOwed } ∧
      settle (settle s) = settle s ∧
      (∀ l rest, s.upU = true → s.txU = none → s.ret = l :: rest → (settle s).txU = some l ∧ (settle s).ret = rest) ∧
      (s.upU = true → s.txU ≠ none ∨ s.ret = [] → (settle s).txU = s.txU ∧ (settle s).ret = s.ret) ∧
      (s.upU = false → (settle s).txU = s.txU ∧ (settle s).ret = [])

/-- The Arbiter's table of choices on a free line. While port D is UP the chosen frame begins transmission (R153, R192). While it is DOWN
the frame chosen by the same table is discarded at once, which frees its place, and the next choice is made: the Outbound Queue and every
ready forward frame are gone, and only an incomplete SEG holds back the frames behind it. Each outbound frame clears slot owed, so at the
end it is set exactly where it was set, at first and by discarded ending marks, more often than there were outbound frames (R154, R192,
R194). A frame on the line leaves no choice to make. -/
def Obligations.ArbiterChoosesByItsTable : Prop :=
  ∀ s : State,
    (s.txD ≠ none → settle s = returnSend s) ∧
    (s.txD = none → s.alertSlot = none → s.replies = [] → s.headReady = false → settle s = returnSend s) ∧
    (s.upD = true → s.txD = none →
      (∀ w, s.alertSlot = some w → (s.slotOwed = true ∨ s.headReady = false) →
        settle s = returnSend
          { s with txD := some ⟨.alert ⟨s.nodeAddr, w.newest, s.log.records.length, s.log.lost, w.record⟩, false, false⟩,
                   alertSlot := none, slotOwed := false }) ∧
      (∀ r rest, s.alertSlot = none → s.replies = r :: rest → (s.slotOwed = true ∨ s.headReady = false) →
        settle s = returnSend { s with txD := some ⟨.reply r, false, false⟩, replies := rest, slotOwed := false }) ∧
      ∀ q rest, s.forward = q :: rest → q.complete = true →
        (s.slotOwed = false ∨ (s.alertSlot = none ∧ s.replies = [])) →
        settle s = returnSend { s with txD := some ⟨q.frame, q.ending, q.underway⟩, forward := rest }) ∧
    (s.upD = false → s.txD = none →
      (∀ w, s.alertSlot = some w → (s.slotOwed = true ∨ s.headReady = false) →
        settle s = settle { s with alertSlot := none, slotOwed := false }) ∧
      (∀ r rest, s.alertSlot = none → s.replies = r :: rest → (s.slotOwed = true ∨ s.headReady = false) →
        settle s = settle { s with replies := rest, slotOwed := false }) ∧
      (∀ q rest, s.forward = q :: rest → q.complete = true →
        (s.slotOwed = false ∨ (s.alertSlot = none ∧ s.replies = [])) →
        settle s = settle { s with forward := rest, slotOwed := s.slotOwed || q.ending }) ∧
      settle s = returnSend
        { s with forward := s.forward.dropWhile (·.complete), replies := [], alertSlot := none,
                 slotOwed := decide (s.replies.length + (if s.alertSlot.isSome then 1 else 0) <
                   (s.forward.takeWhile (·.complete)).countP (·.ending) + (if s.slotOwed then 1 else 0)) } ∧
      (ForwardSettled s → (settle s).forward = []))

/-- A submission below 64 records is accepted at the back with next_sequence; at 64 it is discarded and counted. An alert-worthy one
places or updates the ALERT either way; any other leaves the slot (R144, R145, R151, R152). -/
def Obligations.SubmissionAcceptedOrCounted : Prop :=
  ∀ (n : Option CycleNo) (b : RecordBody) (s : State),
    (s.log.records.length < 64 →
      submit n b s =
        { s with
          log := ⟨s.log.records ++ [⟨s.log.nextSequence, n, b⟩], s.log.nextSequence + 1, s.log.lost⟩
          alertSlot :=
            if s.tables.activeBank.cycle.alertKinds.has b = true then
              some ⟨some s.log.nextSequence, some ⟨s.log.nextSequence, n, b⟩⟩
            else s.alertSlot }) ∧
    (64 ≤ s.log.records.length →
      submit n b s =
        { s with
          log := { s.log with lost := min 65535 (s.log.lost + 1) }
          alertSlot :=
            if s.tables.activeBank.cycle.alertKinds.has b = true then
              some ⟨match s.alertSlot with
                | none => none
                | some w => w.newest, none⟩
            else s.alertSlot })

/-! ### The cycle -/

/-- The timer's end. In OPEN it is an incomplete close with a SEQ INCOMPLETE record of no received number, and the timer runs again (R33,
R35). In CLOSED it is a lost cycle: the next number is presumed lost and counted, its STALE evaluations are made with no channel seen,
and the timer runs again, or at loss_limit the link is lost: behind the records of those evaluations LINK LOST with the lost cycle's number
and the new count, NOSYNC with the timer stopped, and in ACTIVE each link_bound group requested without a cycle, its TRIP record behind
LINK LOST where the log has room for all nine (R36, R39, R40, R109). While the timer is stopped it does not end (log 4). Every close,
of whatever kind, makes its SEQ INCOMPLETE record if it is incomplete, goes to CLOSED with the timer restarted, and then makes its three
stages in order: STALE evaluations, FILL, pending test (R33). -/
def Obligations.TimerEndClosesOrLosesACycle : Prop :=
  ∀ s : State,
    (s.tracker.timer = none → exec .cycleTimerExpiry s = .next (settle s)) ∧
    (s.tracker.state = .opened → ∀ k : CloseKind,
      let n := s.tracker.lastCycle
      let r := match k with
        | .complete => s
        | .byArrival m i => submit (some n) (.seq .incomplete none (some (m, i))) s
        | .byTimer => submit (some n) (.seq .incomplete none none) s
      closeCycle k s = runPendingTest n (fillStage k n (staleTrigger n s.tracker.seen
        { r with tracker := { s.tracker with state := .closed, timer := some s.params.cycleTimeout } }))) ∧
    (s.tracker.timer ≠ none → s.tracker.state = .opened → ∃ u : State,
      exec .cycleTimerExpiry s = .next (settle u) ∧ u = closeCycle .byTimer s ∧
        u = { s with tracker := { s.tracker with state := .closed, timer := some s.params.cycleTimeout },
                     forward := u.forward, slotOwed := u.slotOwed, counters := u.counters, channels := u.channels,
                     groups := u.groups, faultLow := u.faultLow, log := u.log, alertSlot := u.alertSlot, test := u.test } ∧
        u.test.pending = none ∧
        (∀ c : Chan, u.channel c = (staleTrigger s.tracker.lastCycle s.tracker.seen s).channel c) ∧
        (s.log.records.length < 64 → (newRecords s.log u.log).head? =
          some (some s.tracker.lastCycle, .seq .incomplete none none))) ∧
    (s.tracker.timer ≠ none → s.tracker.state = .closed → ∃ u : State,
      let v := staleTrigger (s.tracker.lastCycle + 1) (Vector.replicate 96 false) s
      exec .cycleTimerExpiry s = .next (settle u) ∧
        u = { s with tracker := u.tracker, channels := v.channels, groups := u.groups, faultLow := u.faultLow, log := u.log,
                     alertSlot := u.alertSlot } ∧
        u.tracker.lastCycle = s.tracker.lastCycle + 1 ∧ u.tracker.lastIndex = s.tracker.lastIndex ∧
        u.tracker.seen = s.tracker.seen ∧ u.tracker.consecutiveLost = s.tracker.consecutiveLost + 1 ∧
        u.tracker.lostTotal = min 65535 (s.tracker.lostTotal + 1) ∧ KeepsRecords s.log v.log ∧
        (s.tracker.consecutiveLost + 1 < s.params.lossLimit →
          u = { v with tracker := u.tracker } ∧
          u.tracker.state = .closed ∧ u.tracker.timer = some s.params.cycleTimeout) ∧
        (s.params.lossLimit ≤ s.tracker.consecutiveLost + 1 →
          u.tracker.state = .nosync ∧ u.tracker.timer = none ∧
          (∀ g : Grp, u.group g =
            if s.tables.deviceMode = .active ∧ (s.groupEntry g).linkBound = true then afterRequest v g .link none none
            else v.group g) ∧
          (s.tables.deviceMode = .active → ∀ g : Grp, (s.groupEntry g).linkBound = true → (u.group g).state = .tripped) ∧
          KeepsRecords v.log u.log ∧
          (v.log.records.length ≤ 55 → newRecords v.log u.log =
            (some (s.tracker.lastCycle + 1), .linkLost (s.tracker.consecutiveLost + 1)) ::
              tripRecords v (fun g => (s.groupEntry g).linkBound) .link none)))

/-- The tracker's verdict on a segment of number n and index i, and where a processed one leaves the tracker: OPEN at that number and
index, the skipped numbers of an ahead arrival counted (R24 to R31). What an arrival does, in its order: in NOSYNC the open and LINK
RESTORED; in OPEN the SEGGAP record, or the close by arrival and then what the arrival does in CLOSED; in CLOSED the SKIP record, the
count, the STALE evaluations of each skipped cycle in rising order with no channel seen, the open, and the SEGGAP record (R25, R26, R28,
R29, R40). An open is the tracker's changes, the Table Store's work, the Group Controller's work, and the timer started with the timeout
then active (R31, R111). A good SEG that finds a place and is processed, one that opens a cycle as any other, in either mode, is its
arrival, then the work on its samples in frame order against the state the arrival left, with the last of which it is complete, and then
the complete close where it has the last flag (R23, R27, R41, R189); the line is taken busy there. That nothing
comes within an arrival is the model's choice (log 24). With events between its samples, and on any line, each event of a list is the
row that it is (a command, a TRIP_N change, the copy's end, a transmission's end, what a port takes), taken whole before the next
sample's work or, behind the last sample, before the close, which a RESET DEVICE among them prevents (R65, R82, R95, R171; log 6). A
segment that is turned away, repeated or late leaves its counter or its SEQ record alone (R25, R26, R30). -/
def Obligations.TrackerJudgesAnArrival : Prop :=
  (∀ (n : CycleNo) (i : Nat) (s : State),
    ((arrive n i s).1 = true ↔
      (s.tracker.state = .nosync ∧ i = 0) ∨
      (s.tracker.state = .opened ∧ ((n = s.tracker.lastCycle ∧ s.tracker.lastIndex < i) ∨ ahead n s.tracker.lastCycle = true)) ∨
      (s.tracker.state = .closed ∧ ahead n s.tracker.lastCycle = true)) ∧
    ((arrive n i s).1 = true →
      (arrive n i s).2.tracker.state = .opened ∧ (arrive n i s).2.tracker.lastCycle = n ∧
      (arrive n i s).2.tracker.lastIndex = i ∧
      (arrive n i s).2.tracker.lostTotal =
        (if s.tracker.state ≠ .nosync ∧ n ≠ s.tracker.lastCycle then
          min 65535 (s.tracker.lostTotal + ((n - s.tracker.lastCycle).toNat - 1)) else s.tracker.lostTotal) ∧
      (¬ (s.tracker.state = .opened ∧ n = s.tracker.lastCycle) →
        (arrive n i s).2.tracker.consecutiveLost = 0 ∧
        (arrive n i s).2.tracker.timer = some (arrive n i s).2.params.cycleTimeout ∧
        ∀ c : Chan, (arrive n i s).2.tracker.seen[c] = false ∧ (arrive n i s).2.repeats[c] = false)) ∧
    let last := s.tracker.lastCycle
    let k := (n - last).toNat - 1
    let heard := fun d skip => RecordBody.seq d skip (some (n, i))
    (s.tracker.state = .nosync → i = 0 → arrive n i s = (true, submit (some n) .linkRestored (openCycle n 0 s))) ∧
    (s.tracker.state = .nosync → i ≠ 0 → arrive n i s =
      (false, { s with counters := { s.counters with unsyncCount := min 65535 (s.counters.unsyncCount + 1) } })) ∧
    (s.tracker.state = .opened → n = last → i ≤ s.tracker.lastIndex →
      arrive n i s = (false, submit (some last) (heard .segDup none) s)) ∧
    (s.tracker.state = .closed ∨ (s.tracker.state = .opened ∧ n ≠ last) → ahead n last = false →
      arrive n i s = (false, submit (some last) (heard .late none) s)) ∧
    (s.tracker.state = .opened → n = last → i = s.tracker.lastIndex + 1 →
      arrive n i s = (true, { s with tracker := { s.tracker with lastIndex := i } })) ∧
    (s.tracker.state = .opened → n = last → s.tracker.lastIndex + 1 < i →
      arrive n i s = (true, submit (some n) (heard .segGap none) { s with tracker := { s.tracker with lastIndex := i } })) ∧
    (s.tracker.state = .opened → ahead n last = true → arrive n i s = arrive n i (closeCycle (.byArrival n i) s)) ∧
    (s.tracker.state = .closed → ahead n last = true →
      let s₁ := if k = 0 then s else submit (some last) (heard .skip (some k)) s
      let s₂ := { s₁ with tracker := { s₁.tracker with lostTotal := min 65535 (s₁.tracker.lostTotal + k) } }
      let s₃ := (List.range k).foldl
        (fun u j => staleTrigger (last + 1 + BitVec.ofNat 16 j) (Vector.replicate 96 false) u) s₂
      let s₄ := openCycle n i s₃
      arrive n i s = (true, if i = 0 then s₄ else submit (some n) (heard .segGap none) s₄)) ∧
    let t := groupsOpen (tableStoreOpen n
      { s with tracker := { s.tracker with state := .opened, lastCycle := n, lastIndex := i, consecutiveLost := 0,
                                           seen := Vector.replicate 96 false },
               repeats := Vector.replicate 96 false })
    openCycle n i s = { t with tracker := { t.tracker with timer := some t.params.cycleTimeout } }) ∧
  ∀ (s : State) (g : Segment) (line : List Pattern) (last : Pattern) (r : Receiver),
    g.entries.length ≤ 48 → Delivers s .u (line ++ [last]) ⟨(Frame.seg g).bytes, false⟩ .endSymbol r → ForwardSettled s →
    placesTaken s.forward < 4 →
    let a := arrive g.cycle (g.segByte.toNat % 16)
      { s with rxU := r, forward := s.forward ++ [⟨.seg g, false, false, false, true⟩] }
    a.1 = true →
    (LineBusy s →
      let w := samplesWork g.entries a.2
      let v := showing g w.2 true w.1
      exec (.frameReceived .u line last []) s =
        .next (settle (segmentOver (if g.segByte.msb = true then closeCycle .complete v else v)))) ∧
    ∀ between : List (List Between),
      let v := segmentWork g [] g.entries between (settle (reshown g g.entries g.entries.isEmpty a.2))
      exec (.frameReceived .u line last between) s =
        .next (settle (segmentOver
          (if g.segByte.msb = true ∧ v.tracker.state = .opened then closeCycle .complete v else v)))

/-- A SEG that the tracker discards in ACTIVE leaves no trace but its counter or its SEQ record: turned away in NOSYNC, repeated or
late (R23, R25, R26, R30, R189). -/
def Obligations.DiscardedSegmentLeavesOnlyItsReport : Prop :=
  ∀ (s : State) (g : Segment) (line : List Pattern) (last : Pattern) (r : Receiver) (b : List (List Between)),
    g.entries.length ≤ 48 → Delivers s .u (line ++ [last]) ⟨(Frame.seg g).bytes, false⟩ .endSymbol r →
    s.tables.deviceMode = .active → ForwardSettled s → placesTaken s.forward < 4 →
    let row := Instr.frameReceived .u line last b
    let report := fun d => RecordBody.seq d none (some (g.cycle, g.segByte.toNat % 16))
    let s' := { s with rxU := r }
    (s.tracker.state = .nosync → g.segByte.toNat % 16 ≠ 0 →
      exec row s = .next (settle { s' with counters :=
        { s.counters with unsyncCount := min 65535 (s.counters.unsyncCount + 1) } })) ∧
    (s.tracker.state = .opened → g.cycle = s.tracker.lastCycle → g.segByte.toNat % 16 ≤ s.tracker.lastIndex →
      exec row s = .next (settle (submit (some s.tracker.lastCycle) (report .segDup) s'))) ∧
    (s.tracker.state = .opened → g.cycle ≠ s.tracker.lastCycle → ahead g.cycle s.tracker.lastCycle = false →
      exec row s = .next (settle (submit (some s.tracker.lastCycle) (report .late) s'))) ∧
    (s.tracker.state = .closed → ahead g.cycle s.tracker.lastCycle = false →
      exec row s = .next (settle (submit (some s.tracker.lastCycle) (report .late) s')))

/-- In BYPASS with nothing pending, every good SEG that finds a place is forwarded untouched whatever the tracker's verdict, with the
ending mark exactly where it is processed and its last flag closes the cycle (R27, R34); no runtime record changes, and the tables stay
(R23, R44, R87, R137). The tracker is that of the arrival with the carried channels of a processed segment marked seen, and CLOSED with
the timer restarted where the last flag closes the cycle (R32, R44); one turned away, repeated or late changes no more than its arrival
does. The line is taken busy, so that the frame is seen in the queue. -/
def Obligations.BypassForwardsEverySegmentUntouched : Prop :=
  ∀ (s : State) (g : Segment) (line : List Pattern) (last : Pattern) (r : Receiver),
    g.entries.length ≤ 48 → Delivers s .u (line ++ [last]) ⟨(Frame.seg g).bytes, false⟩ .endSymbol r →
    s.tables.deviceMode = .bypass → s.tables.commit = none → s.tables.modeChange = false → ForwardSettled s →
    placesTaken s.forward < 4 → LineBusy s →
    let a := arrive g.cycle (g.segByte.toNat % 16) s
    ∃ t, exec (.frameReceived .u line last []) s = .next t ∧
      t.forward = s.forward ++
        [⟨.seg g, false, true, a.1 && g.segByte.msb, false⟩] ∧
      t.channels = s.channels ∧ t.tables = s.tables ∧
      (a.1 = false → t.tracker = a.2.tracker ∧ ∀ b : List (List Between), exec (.frameReceived .u line last b) s =
        .next (settle { a.2 with rxU := r, forward := s.forward ++ [⟨.seg g, false, true, false, false⟩] })) ∧
      (a.1 = true →
        (∀ c : Chan, t.tracker.seen[c] = true ↔ a.2.tracker.seen[c] = true ∨ ∃ x ∈ g.entries, x.channel.toNat = c.val) ∧
        (g.segByte.msb = false → t.tracker = { a.2.tracker with seen := t.tracker.seen }) ∧
        (g.segByte.msb = true → t.tracker =
          { a.2.tracker with seen := t.tracker.seen, state := .closed, timer := some s.params.cycleTimeout }))

/-- In ACTIVE, a segment of the cycle in progress, in sequence or after a gap, keeps its entries in their order: a checked channel keeps
its first entry of the cycle and no other, unchecked channels keep all of theirs unaltered, and every table channel it carries is seen;
its cycle number and segment byte are kept (R26, R41, R46 to R50, R100). With the last flag it closes the cycle complete: CLOSED, the
timer restarted, and behind it a FILL for the missing GUARD channels where the reserved place is free, else the ending mark on itself
(R27, R33, R34, R96, R99). A RESET DEVICE taken between two samples of any processed segment is the reset at that point and nothing more:
the entries of the samples before it stand, those after it pass unaltered, no channel is seen, and the last flag closes no cycle (R65,
R184). Segments that open a cycle, and other events between samples, are in TrackerJudgesAnArrival. The line is taken busy, so that the
frames are seen in the queue. -/
def Obligations.ActiveSegmentKeepsOneEntryPerCheckedChannel : Prop :=
  (∀ (s : State) (g : Segment) (line : List Pattern) (last : Pattern) (r : Receiver),
    g.entries.length ≤ 48 → Delivers s .u (line ++ [last]) ⟨(Frame.seg g).bytes, false⟩ .endSymbol r →
    s.tables.deviceMode = .active → ForwardSettled s → placesTaken s.forward < 4 → LineBusy s →
    s.tracker.state = .opened → g.cycle = s.tracker.lastCycle → s.tracker.lastIndex < g.segByte.toNat % 16 →
    ∃ (t : State) (out : List SampleEntry),
      exec (.frameReceived .u line last []) s = .next t ∧
        (out.map (·.channel)).Sublist (g.entries.map (·.channel)) ∧
        (∀ c : Chan, s.checked c = true →
          (out.filter (fun x => x.channel.toNat == c.val)).length =
            if s.tracker.seen[c] = true then 0 else min 1 (g.entries.filter (fun x => x.channel.toNat == c.val)).length) ∧
        (∀ n : Byte, (∀ c : Chan, c.val = n.toNat → s.checked c = false) →
          out.filter (fun x => x.channel == n) = g.entries.filter (fun x => x.channel == n)) ∧
        (∀ c : Chan, t.tracker.seen[c] = true ↔ s.tracker.seen[c] = true ∨ ∃ x ∈ g.entries, x.channel.toNat = c.val) ∧
        (g.segByte.msb = false →
          t.forward = s.forward ++ [⟨.seg { g with entries := out }, false, true, false, false⟩] ∧
          t.tracker = { s.tracker with lastIndex := g.segByte.toNat % 16, seen := t.tracker.seen }) ∧
        (g.segByte.msb = true →
          t.tracker = { s.tracker with lastIndex := g.segByte.toNat % 16, seen := t.tracker.seen, state := .closed,
                                       timer := some s.params.cycleTimeout } ∧
          let missing := allChannels.filter (fun c => (s.entry c).mode == .guard && (s.entry c).expected g.cycle &&
            !t.tracker.seen[c])
          let held := s.forward.any (·.reserved)
          ((missing = [] ∨ held = true) →
            t.forward = s.forward ++ [⟨.seg { g with entries := out }, false, true, true, false⟩]) ∧
          (missing ≠ [] → held = false → ∃ l : List SampleEntry, l.map (·.channel.toNat) = missing.map (·.val) ∧
            t.forward = s.forward ++
              [⟨.seg { g with entries := out }, false, true, false, false⟩, ⟨.fill g.cycle l, true, true, true, false⟩]))) ∧
  ∀ (s : State) (g : Segment) (line : List Pattern) (last : Pattern) (r : Receiver) (front back : List SampleEntry) (c : Command)
    (rest : List Command), g.entries = front ++ back → g.entries.length ≤ 48 →
    Delivers s .u (line ++ [last]) ⟨(Frame.seg g).bytes, false⟩ .endSymbol r → ForwardSettled s → placesTaken s.forward < 4 → LineBusy s →
    AtHead s c rest 0x60 → c.args = [2] →
    let a := arrive g.cycle (g.segByte.toNat % 16)
      { s with rxU := r, forward := s.forward ++ [⟨.seg g, false, false, false, true⟩] }
    let w := samplesWork front a.2
    let v := showing g (w.2 ++ back) false w.1
    a.1 = true → ∃ u,
      exec .resetDevice v = .next u ∧
        exec (.frameReceived .u line last (List.replicate front.length [] ++ [[.executorTakes]])) s = .next (segmentOver u) ∧
        (segmentOver u).forward = v.forward.map (fun q => ⟨q.frame, q.reserved, true, false, false⟩) ∧
        u.tracker = ⟨.nosync, 0, 0, none, 0, 0, Vector.replicate 96 false⟩ ∧ u.log = ⟨[], 0, 0⟩ ∧
        ∀ k : Chan, u.channel k = .fresh .idle

/-- A swap at the open of cycle n, where the pending commit's target is reached: the banks exchange roles, BYPASS becomes ACTIVE, the
marks are kept, edited records (every record, where the mode changes) are reset and the others kept whole, and the COMMIT record is
submitted under the newly active alert kinds. A target not reached leaves all as it was (R80, R128, R131, R133), and so does an open with
neither a commit nor a mode change pending (R31, R128, R139). -/
def Obligations.CommitIsMadeAtTheFirstOpenThatReachesIt : Prop :=
  (∀ (n : CycleNo) (s : State), s.tables.commit = none → s.tables.modeChange = false → tableStoreOpen n s = s) ∧
  ∀ (n : CycleNo) (s : State) (k : CommitTarget), s.tables.commit = some k → s.tables.modeChange = false →
    let t := tableStoreOpen n s
    ((∃ m, k = .atCycle m ∧ ahead m n = true) → t = s) ∧
    ((k = .next ∨ ∃ m, k = .atCycle m ∧ ahead m n = false) →
      t.tables = { s.tables with commit := none, active := s.tables.active.other, deviceMode := .active, copyInFlight := true } ∧
      t.tables.activeBank = s.tables.stagingBank ∧ t.tables.stagingBank = s.tables.activeBank ∧
      (∀ c : Chan, t.channel c =
        if s.tables.deviceMode = .bypass ∨ s.tables.marks.channels[c] = true then
          .fresh (if s.tables.stagingBank.channels[c].mode = .off then .idle else .clean)
        else s.channel c) ∧
      t = { submit (some n)
              (.commit (s.tables.marks.channels.toList.count true) s.tables.marks.groups s.tables.marks.cycle)
              { s with tables := t.tables } with channels := t.channels })

/-- A pending change to BYPASS at an open: dropped with MODE REFUSED while any group is TRIPPED, else made, with every runtime record
reset IDLE, a pending test ABORTED with detail MODE, and MODE BYPASS submitted (R81, R139, R166). -/
def Obligations.ModeChangeIsMadeOrDroppedAtTheOpen : Prop :=
  ∀ (n : CycleNo) (s : State), s.tables.modeChange = true → s.tables.commit = none →
    ((∃ g : Grp, (s.group g).state = .tripped) →
      tableStoreOpen n s = submit (some n) (.mode .refused) { s with tables := { s.tables with modeChange := false } }) ∧
    ((∀ g : Grp, (s.group g).state = .armed) → ∃ u : State,
      tableStoreOpen n s = submit (some n) (.mode .bypass) u ∧
        u = { s with tables := { s.tables with modeChange := false, deviceMode := .bypass }, channels := u.channels,
                     test := u.test } ∧
        (∀ c : Chan, u.channel c = .fresh .idle) ∧
        (s.test.pending = none → u.test = s.test) ∧
        ∀ p, s.test.pending = some p →
          u.test = ⟨none, ⟨.aborted, some p.expectation.kind, some p.channel, none, some .mode, some n⟩⟩)

/-- The Group Controller at an open: every TRIPPED group's hold-off drops by one, and then every TRIPPED group with auto_rearm yes that
is ready returns to ARMED, with a REARM AUTO record for each, ascending; ARMED groups are not touched, and FAULT_N stays low only if a
group is still TRIPPED (R103, R111, R113). It touches nothing but the groups, FAULT_N, the log and the alert slot. -/
def Obligations.OpenStepsHoldoffsAndAutoRearms : Prop :=
  ∀ s : State,
    groupsOpen s = { s with groups := (groupsOpen s).groups, faultLow := (groupsOpen s).faultLow, log := (groupsOpen s).log,
                            alertSlot := (groupsOpen s).alertSlot } ∧
    (FaultPinHonest s → FaultPinHonest (groupsOpen s)) ∧
    (∀ g : Grp,
      ((s.group g).state = .armed → (groupsOpen s).group g = s.group g) ∧
      ((s.group g).state = .tripped →
        (groupsOpen s).group g =
          if (s.groupEntry g).autoRearm = true ∧
              (∀ c : Chan, s.guardMember g c = true → (s.channel c).state ≠ .faulted) ∧
              ((s.groupEntry g).pinBound = true → s.tripHigh = true) ∧
              ((s.groupEntry g).linkBound = true → s.tracker.state ≠ .nosync) ∧ (s.group g).holdoffLeft ≤ 1
          then .armed
          else { s.group g with holdoffLeft := (s.group g).holdoffLeft - 1 })) ∧
    (s.log.records.length ≤ 56 → KeepsRecords s.log (groupsOpen s).log ∧
      newRecords s.log (groupsOpen s).log =
        (allGroups.filter (fun g => (s.group g).state == .tripped && ((groupsOpen s).group g).state == .armed)).map
          (fun g => (s.stamp, .rearm g .auto)))

/-! ### Samples, evaluations, substitution and fill -/

/-- One evaluation of a channel, and all that it changes: the history update, and then recovery with its RECOVER record, qualification
or the state by violations; no other channel's record changes. Qualification submits the FAULT record, and behind it a GUARD channel
with trip yes requests its group in ACTIVE: an ARMED one trips with its TRIP record, a TRIPPED one restarts its hold-off (R69, R70, R72 to
R74, R85, R104, R105, R107). -/
def Obligations.EvaluationJudgesOneChannel : Prop :=
  ∀ (c : Chan) (n : CycleNo) (k : ClassSet) (v : Option Sample) (s : State),
    let r := s.channel c
    let e := s.entry c
    let h := ((if k = .none then .clean else .violating) :: r.history).take e.window
    let t := evaluate c n k v s
    (∀ d : Chan, d ≠ c → t.channel d = s.channel d) ∧
    (r.state = .faulted → k ≠ .none →
      t = s.setChannel c { r with history := h, violations := h.count .violating, recovery := 0 }) ∧
    (r.state = .faulted → k = .none → r.recovery + 1 < e.recovery →
      t = s.setChannel c { r with history := h, violations := h.count .violating, recovery := r.recovery + 1 }) ∧
    (r.state = .faulted → k = .none → e.recovery ≤ r.recovery + 1 →
      t = submit (some n) (.recover c) (s.setChannel c
        { r with state := .clean, history := [], violations := 0, recovery := 0, faultClasses := none, faultCycle := none })) ∧
    (r.state ≠ .faulted → h.count .violating < e.threshold →
      t = s.setChannel c { r with history := h, violations := h.count .violating,
                                  state := if h.count .violating = 0 then .clean else .suspect }) ∧
    (r.state ≠ .faulted → e.threshold ≤ h.count .violating →
      let q := submit (some n) (.fault c k v e.group) (s.setChannel c
        { r with history := h, violations := h.count .violating, state := .faulted, recovery := 0,
                 faultClasses := some k, faultCycle := some n })
      let requests := fun g : Grp => e.group = some g ∧ e.mode = .guard ∧ e.trip = true ∧ s.tables.deviceMode = .active
      (∀ g : Grp, t.group g = if requests g then afterRequest s g .channel (some c) (some n) else s.group g) ∧
      (∀ g : Grp, requests g → (s.group g).state = .armed →
        t = { submit (some n) (.trip g .channel (some c))
                (q.setGroup g ⟨.tripped, some .channel, some c, some n, (s.groupEntry g).holdoff⟩) with faultLow := true }) ∧
      (∀ g : Grp, requests g → (s.group g).state = .tripped →
        t = q.setGroup g { s.group g with holdoffLeft := (s.groupEntry g).holdoff }) ∧
      ((∀ g : Grp, ¬ requests g) → t = q) ∧
      (s.log.records.length < 64 → (newRecords s.log t.log).head? = some (some n, .fault c k v e.group)))

/-- The work on one sample of an open cycle that is not judged: channels 96..255 and unchecked channels pass unaltered with no more
than their seen mark, and a duplicate is removed, its record untouched, with a DUP record the first time (R46 to R49). -/
def Obligations.UnjudgedSamplesChangeNoRecord : Prop :=
  ∀ (x : SampleEntry) (s : State), s.tracker.state = .opened →
    (96 ≤ x.channel.toNat → sampleWork x s = (s, some x)) ∧
    ∀ c : Chan, c.val = x.channel.toNat →
      (s.checked c = false →
        sampleWork x s = ({ s with tracker := { s.tracker with seen := s.tracker.seen.set c true } }, some x)) ∧
      (s.checked c = true → s.tracker.seen[c] = true →
        sampleWork x s =
          (if s.repeats[c] = true then s
           else submit (some s.tracker.lastCycle) (.dup c) { s with repeats := s.repeats.set c true }, none))

/-- The first sample of a checked channel in a cycle is judged once and emitted in its place. The Checker's outcome is worked against the
baseline as it stood; a fault-free conditioned value becomes rate_base and sets in_warn by the warning window, a WARN record coming
exactly at a change from no to yes (R59, R61, R62); then comes one evaluation of the outcome's classes (R64, R69), and last_good. While
the group of a GUARD channel is TRIPPED, its own evaluation's trip included, the sample carries safe_value with SUBST (R88 row 1, R89); a
FAULTED one, its reaction (R88 rows 2 to 4); a MONITOR channel's sample, the reported value with the quality as read (R93). last_good
takes the conditioned value of a sample emitted unaltered while not FAULTED, and else stands (R78). -/
def Obligations.JudgedSampleIsEmittedByTheTable : Prop :=
  ∀ (x : SampleEntry) (s : State) (c : Chan), s.tracker.state = .opened → c.val = x.channel.toNat → s.checked c = true →
    s.tracker.seen[c] = false → ∃ (t : State) (y : SampleEntry),
      sampleWork x s = (t, some y) ∧ y.channel = x.channel ∧
      let e := s.entry c
      let r := s.channel c
      let o := checkOutcome e r.rateBase x
      let reported := o.conditioned.getD x.value
      let r₁ := match o.conditioned with
        | none => r
        | some v =>
          if o.classes = .none then
            { r with rateBase := some v
                     inWarn := e.classes.warn && (decide (v.toInt < e.warnLow.toInt) || decide (e.warnHigh.toInt < v.toInt)) }
          else r
      let s₁ := { s with tracker := { s.tracker with seen := s.tracker.seen.set c true } }.setChannel c r₁
      let s₂ := if r₁.inWarn && !r.inWarn then submit (some s.tracker.lastCycle) (.warn c reported) s₁ else s₁
      let s₃ := evaluate c s.tracker.lastCycle o.classes (some reported) s₂
      let kept := r.lastGood
      let follows := o.conditioned.or r.lastGood
      let forced := ∃ g : Grp, e.group = some g ∧ (t.group g).state = .tripped
      let held := r.lastGood.getD e.safeValue
      t = s₃.setChannel c { s₃.channel c with lastGood := (t.channel c).lastGood } ∧
      (e.mode = .guard → forced → (y.value, y.quality) = (e.safeValue, 3) ∧ (t.channel c).lastGood = kept) ∧
      (e.mode = .guard → ¬ forced → (t.channel c).state = .faulted →
        (t.channel c).lastGood = kept ∧
        (e.reaction = .safe → (y.value, y.quality) = (e.safeValue, 3)) ∧
        (e.reaction = .hold → (y.value, y.quality) = (held, 3)) ∧
        (e.reaction = .mark → (y.value, y.quality) = (reported, 2))) ∧
      (e.mode = .guard → ¬ forced → (t.channel c).state ≠ .faulted → o.classes ≠ .none → e.holdSuspect = true →
        (y.value, y.quality) = (held, 3) ∧ (t.channel c).lastGood = kept) ∧
      (e.mode = .guard → ¬ forced → (t.channel c).state ≠ .faulted → (o.classes = .none ∨ e.holdSuspect = false) →
        (y.value, y.quality) = (reported, o.quality.code) ∧ (t.channel c).lastGood = follows) ∧
      (e.mode = .monitor → (y.value, y.quality) = (reported, o.quality.code) ∧
        (t.channel c).lastGood = if (t.channel c).state = .faulted then kept else follows)

/-- A STALE trigger for cycle n gives every checked, expected, unseen channel with STALE among its classes one evaluation of {STALE},
and leaves every other record as it was (R75, R77). The evaluations are taken in ascending channel number, each whole, with its FAULT
record and its trip request, before the next (R70, R74, R75, R85, R107), and touch nothing but the runtime records, the groups, FAULT_N,
the log and the alert slot. -/
def Obligations.StaleTriggerEvaluatesTheMissingChannels : Prop :=
  ∀ (n : CycleNo) (seen : Vector Bool 96) (s : State),
    let missing := fun (u : State) (c : Chan) => u.tables.deviceMode = .active ∧ (u.entry c).mode ≠ .off ∧
      n.toNat % (u.entry c).period = (u.entry c).phase ∧ seen[c] = false ∧ (u.entry c).classes.stale = true
    let t := staleTrigger n seen s
    t = (List.finRange 96).foldl
      (fun u c => if missing u c then evaluate c n { ClassSet.none with stale := true } none u else u) s ∧
    t = { s with channels := t.channels, groups := t.groups, faultLow := t.faultLow, log := t.log, alertSlot := t.alertSlot } ∧
    ∀ c : Chan,
      t.channel c =
        (if missing s c then (evaluate c n { ClassSet.none with stale := true } none s).channel c else s.channel c) ∧
      (t.channel c).lastGood = (s.channel c).lastGood ∧ (t.channel c).rateBase = (s.channel c).rateBase ∧
      (t.channel c).inWarn = (s.channel c).inWarn

/-- The FILL entries of a close: one for each GUARD channel that was expected and is unseen, ascending, its value and quality by the table
(R96, R97). In ACTIVE they make one FILL frame in the reserved place with the ending mark: at the tail of the Forward Queue, or, at a
close by arrival, directly ahead of the SEG that caused it (R28, R34, R99, R189). A reserved place still held discards it with
forward_overruns raised (R99). Where none is placed, a complete close marks its closing SEG, in the queue or on the line, and sets slot
owed where that SEG is gone already (log 23: the model's choice), and an incomplete one sets slot owed (R34, R192). -/
def Obligations.FillFrameCarriesTheMissingGuardChannels : Prop :=
  ∀ (s : State) (n : CycleNo),
    let fill : Queued := ⟨.fill n (fillEntries s n), true, true, true, false⟩
    let noFill := fun (k : CloseKind) (t : State) =>
      if k = .complete then
        { t with
          forward := t.forward.map (fun q => { q with ending := q.ending || q.underway })
          txD := t.txD.map (fun f => { f with ending := f.ending || f.underway })
          slotOwed := t.slotOwed || (!t.forward.any (·.underway) && !t.txD.any (·.underway)) }
      else { t with slotOwed := true }
    ((fillEntries s n).map (·.channel.toNat)).Pairwise (· < ·) ∧
    (∀ x : SampleEntry, x ∈ fillEntries s n ↔ ∃ c : Chan, x.channel.toNat = c.val ∧ (s.entry c).mode = .guard ∧
      n.toNat % (s.entry c).period = (s.entry c).phase ∧ s.tracker.seen[c] = false ∧
      (x.value, x.quality) =
        (let e := s.entry c
         let held := (s.channel c).lastGood.getD e.safeValue
         if ∃ g : Grp, e.group = some g ∧ (s.group g).state = .tripped then (e.safeValue, (3 : Byte))
         else if (s.channel c).state = .faulted then
           match e.reaction with
           | .safe => (e.safeValue, (3 : Byte))
           | .hold => (held, (3 : Byte))
           | .mark => (held, (2 : Byte))
         else (held, (3 : Byte)))) ∧
    (s.tables.deviceMode = .active → fillEntries s n ≠ [] → (∀ q ∈ s.forward, q.reserved = false) →
      fillStage .byTimer n s = { s with forward := s.forward ++ [fill] } ∧
      fillStage .complete n s = { s with forward := s.forward ++ [fill] } ∧
      ∀ (front : List Queued) (q : Queued) (m : CycleNo) (i : Nat), s.forward = front ++ [q] →
        (∀ x ∈ front, x.complete = true) → q.complete = false →
        fillStage (.byArrival m i) n s = { s with forward := front ++ [fill, q] }) ∧
    (s.tables.deviceMode = .active → fillEntries s n ≠ [] → (∃ q ∈ s.forward, q.reserved = true) → ∀ k : CloseKind,
      fillStage k n s =
        noFill k { s with counters := { s.counters with forwardOverruns := min 65535 (s.counters.forwardOverruns + 1) } }) ∧
    (s.tables.deviceMode = .bypass ∨ fillEntries s n = [] → ∀ k : CloseKind, fillStage k n s = noFill k s)

/-! ### The external trip line and the group commands -/

/-- A fall of TRIP_N requests every pin_bound group in ACTIVE, the others standing; in BYPASS it only sets the level; a low sample
after a low one is no fall. A rise sets the level and nothing else (R105, R106, R108). -/
def Obligations.TripLineFallRequestsPinBoundGroups : Prop :=
  ∀ s : State,
    exec .tripNRise s = .next (settle { s with tripHigh := true }) ∧
    (s.tripHigh = false → exec .tripNFall s = .next (settle s)) ∧
    (s.tripHigh = true → s.tables.deviceMode = .bypass → exec .tripNFall s = .next (settle { s with tripHigh := false })) ∧
    (s.tripHigh = true → s.tables.deviceMode = .active → ∃ u : State,
      exec .tripNFall s = .next (settle u) ∧
        u = { s with tripHigh := false, groups := u.groups, faultLow := u.faultLow, log := u.log, alertSlot := u.alertSlot } ∧
        (∀ g : Grp, u.group g =
          if (s.groupEntry g).pinBound = true then afterRequest s g .pin none s.stamp else s.group g) ∧
        (s.log.records.length ≤ 56 → KeepsRecords s.log u.log ∧
          newRecords s.log u.log = tripRecords s (fun g => (s.groupEntry g).pinBound) .pin s.stamp))

/-- TRIP in ACTIVE requests the group it names, or all eight for 255, and its result tells for each whether it was tripped or
restarted; in BYPASS it is answered MODE (R110). -/
def Obligations.TripCommandRequestsItsGroups : Prop :=
  ∀ (s : State) (c : Command) (rest : List Command) (b : Byte), AtHead s c rest 0x32 → c.args = [b] → (b.toNat < 8 ∨ b = 255) →
    (s.tables.deviceMode = .bypass → exec .trip s = answers c .mode .empty (taken s rest)) ∧
    (s.tables.deviceMode = .active → ∃ u : State,
      exec .trip s = answers c .ok
          (.tripItems ((allGroups.filter (fun g => b == 255 || b.toNat == g.val)).map (fun g =>
            if (s.group g).state = .armed then .tripped else .restarted))) u ∧
        u = { s with cmdFifo := rest, groups := u.groups, faultLow := u.faultLow, log := u.log, alertSlot := u.alertSlot } ∧
        (∀ g : Grp, u.group g =
          if b = 255 ∨ b.toNat = g.val then afterRequest s g .command none s.stamp else s.group g) ∧
        (s.log.records.length ≤ 56 → KeepsRecords s.log u.log ∧
          newRecords s.log u.log = tripRecords s (fun g => b == 255 || b.toNat == g.val) .command s.stamp))

/-- REARM of one group: an ARMED one is reported so, a ready one rearmed with a REARM record, and one that is not ready answered
NOTREADY with the first of R112's conditions that fails; REARM ALL is answered OK with eight items and rearms the ready ones, their
REARM records ascending; where it rearms any, FAULT_N stays low only if a group is still TRIPPED (R103, R112, R114, R115). -/
def Obligations.RearmCommandRearmsReadyGroups : Prop :=
  ∀ (s : State) (c : Command) (rest : List Command), AtHead s c rest 0x33 →
    (∀ g : Grp, c.args = [BitVec.ofNat 8 g.val] →
      ((s.group g).state = .armed → exec .rearm s = answers c .ok (.rearmItem .alreadyArmed) (taken s rest)) ∧
      ((s.group g).state = .tripped → failedCondition s g = none → ∃ low,
        exec .rearm s = answers c .ok (.rearmItem .rearmed)
          (submit s.stamp (.rearm g .command) { (taken s rest).setGroup g .armed with faultLow := low }) ∧
        (low = true ↔ s.faultLow = true ∧ ∃ h : Grp, h ≠ g ∧ (s.group h).state = .tripped)) ∧
      (∀ why, (s.group g).state = .tripped → failedCondition s g = some why →
        exec .rearm s = answers c .notReady (.rearmItem (.notReady why)) (taken s rest))) ∧
    (c.args = [255] → ∃ (u : State) (items : List RearmItem),
      exec .rearm s = answers c .ok (.rearmItems items) u ∧
        u = { s with cmdFifo := rest, groups := u.groups, faultLow := u.faultLow, log := u.log, alertSlot := u.alertSlot } ∧
        items = allGroups.map (fun g =>
          if (s.group g).state = .armed then .alreadyArmed
          else match failedCondition s g with
            | none => .rearmed
            | some why => .notReady why) ∧
        (∀ g : Grp, u.group g =
          if (s.group g).state = .tripped ∧ failedCondition s g = none then .armed else s.group g) ∧
        (u.faultLow = true ↔ s.faultLow = true ∧ ((∃ h : Grp, (u.group h).state = .tripped) ∨ u.groups = s.groups)) ∧
        (s.log.records.length ≤ 56 → KeepsRecords s.log u.log ∧
          newRecords s.log u.log =
            (allGroups.filter (fun g => (s.group g).state == .tripped && (failedCondition s g).isNone)).map
              (fun g => (s.stamp, .rearm g .command))))

/-! ### The other management commands -/

/-- A unicast command waits at the head while 8 replies are held, and a row finds nothing to take in an empty FIFO, or where a command of
another code, or a RESET of another scope, stands at the head (R171; the reading of the rows is log 3, log 15). A code that names no
command is answered UNKNOWN whatever its arguments. Arguments that are not well formed, or name no bank, channel, group, target, kind or
number of records, are answered BADARG with no result (R83, R110, R114, R121, R125, R147, R148, R158, R167, R174, R175, R179 to R181; the
writes' and RESET's are in WritesAreRefusedWhileTheBankIsClosed and ResetScopesResetWhatTheyName). -/
def Obligations.CommandsWaitForRoomAndUnknownOnesAreRefused : Prop :=
  ∀ s : State,
    (∀ i ∈ commandRows,
      (s.cmdFifo = [] → exec i s = .next (settle s)) ∧
      (∀ c rest, s.cmdFifo = c :: rest → c.broadcast = false → 8 ≤ s.replies.length → exec i s = .next (settle s))) ∧
    ∀ (c : Command) (rest : List Command),
      (s.cmdFifo = c :: rest →
        (∀ p ∈ rowCodes, c.code ≠ p.2 → exec p.1 s = .next (settle s)) ∧
        (c.code ∈ commandCodes → exec .unknownCommand s = .next (settle s)) ∧
        (c.args ∈ ([[1], [2]] : List (List Byte)) → exec .resetRuntime s = .next (settle s)) ∧
        (c.args ∈ ([[0], [2]] : List (List Byte)) → exec .resetLog s = .next (settle s)) ∧
        (c.args ∈ ([[0], [1]] : List (List Byte)) → exec .resetDevice s = .next (settle s))) ∧
      (c.code ∉ commandCodes → AtHead s c rest c.code →
        exec .unknownCommand s = answers c .unknown .empty (taken s rest)) ∧
      let bad := fun (i : Instr) (code : Byte) => AtHead s c rest code → exec i s = answers c .badArg .empty (taken s rest)
      (c.args ≠ [] → bad .identify 0x01 ∧ bad .status 0x02 ∧ bad .cancel 0x21 ∧ bad .bypass 0x22 ∧ bad .logClear 0x42) ∧
      ((∀ b n : Byte, c.args = [b, n] → 1 < b.toNat ∨ 96 ≤ n.toNat) → bad .readChannel 0x10) ∧
      ((∀ b n : Byte, c.args = [b, n] → 1 < b.toNat ∨ 8 ≤ n.toNat) → bad .readGroup 0x12) ∧
      ((∀ b : Byte, c.args = [b] → 1 < b.toNat) → bad .readCycle 0x14) ∧
      ((∀ k : CommitTarget, c.args ≠ k.bytes) → bad .commit 0x20) ∧
      ((∀ n : Byte, c.args = [n] → 96 ≤ n.toNat) → bad .channelState 0x30) ∧
      ((∀ n : Byte, c.args = [n] → 8 ≤ n.toNat) → bad .groupState 0x31) ∧
      ((∀ n : Byte, c.args = [n] → 8 ≤ n.toNat ∧ n ≠ 255) → bad .trip 0x32 ∧ bad .rearm 0x33) ∧
      ((∀ n : Byte, c.args = [n] → n.toNat = 0 ∨ 4 < n.toNat) → bad .logRead 0x40) ∧
      (c.args.length ≠ 2 → bad .logAck 0x41) ∧
      ((∀ p : PendingTest, p.expectation.InRange → c.args ≠ p.args) → bad .test 0x50) ∧
      (c.args ≠ [0] → c.args ≠ [1] → bad .testResult 0x51)

/-- The reading commands are answered OK with what they read and change nothing else: IDENTIFY (R176), STATUS (R177), CHANNEL-STATE
(R83), GROUP-STATE (R121), LOG-READ (R147). READ-CHANNEL, READ-GROUP and READ-CYCLE answer an ACTIVE read always and a STAGING read
unless a copy is in flight, with the bank letter, the entry and, for STAGING, the edited mark; a STAGING read during a copy is BUSY
(R18, R19). -/
def Obligations.ReadingCommandsAnswerWithTheState : Prop :=
  ∀ (s : State) (c : Command) (rest : List Command) (k : Chan) (g : Grp),
    let other := if s.tables.active = .a then BankLetter.b else .a
    (AtHead s c rest 0x01 → c.args = [] →
      exec .identify s = answers c .ok (.identity 0x0D52 0x0096 1 s.nodeAddr) (taken s rest)) ∧
    (AtHead s c rest 0x02 → c.args = [] → ∃ r : StatusSnapshot,
      exec .status s = answers c .ok (.snapshot r) (taken s rest) ∧
        r.deviceMode = s.tables.deviceMode ∧ r.trackerState = s.tracker.state ∧ r.lastCycle = s.tracker.lastCycle ∧
        r.consecutiveLost = s.tracker.consecutiveLost ∧ r.lostTotal = s.tracker.lostTotal ∧ r.commit = s.tables.commit ∧
        r.copyInFlight = s.tables.copyInFlight ∧ r.modeChange = s.tables.modeChange ∧
        (∀ g : Grp, r.groups[g] = (s.group g).state) ∧ r.logCount = s.log.records.length ∧ r.lost = s.log.lost ∧
        r.test = s.test.pending.map (fun p => (p.expectation.kind, p.channel)) ∧ r.counters = s.counters) ∧
    (AtHead s c rest 0x30 → c.args = [BitVec.ofNat 8 k.val] →
      exec .channelState s = answers c .ok (.channelRecord (s.channel k)) (taken s rest)) ∧
    (AtHead s c rest 0x31 → c.args = [BitVec.ofNat 8 g.val] →
      exec .groupState s = answers c .ok
        (.groupRecord (s.group g)
          (if (s.group g).state = .armed then none
           else some (match failedCondition s g with
            | none => .ready
            | some why => .failed why))) (taken s rest)) ∧
    (∀ n : Byte, AtHead s c rest 0x40 → c.args = [n] → 1 ≤ n.toNat → n.toNat ≤ 4 →
      exec .logRead s = answers c .ok
        (.logRecords s.log.records.length s.log.lost (s.log.records.take n.toNat)) (taken s rest)) ∧
    (AtHead s c rest 0x10 →
      (c.args = [0, BitVec.ofNat 8 k.val] → exec .readChannel s = answers c .ok
        (.channelEntry s.tables.active (s.entry k) none) (taken s rest)) ∧
      (c.args = [1, BitVec.ofNat 8 k.val] → s.tables.copyInFlight = false → exec .readChannel s = answers c .ok
        (.channelEntry other s.tables.stagingBank.channels[k] (some s.tables.marks.channels[k])) (taken s rest)) ∧
      (c.args = [1, BitVec.ofNat 8 k.val] → s.tables.copyInFlight = true →
        exec .readChannel s = answers c .busy .empty (taken s rest))) ∧
    (AtHead s c rest 0x12 →
      (c.args = [0, BitVec.ofNat 8 g.val] → exec .readGroup s = answers c .ok
        (.groupEntry s.tables.active (s.groupEntry g) none) (taken s rest)) ∧
      (c.args = [1, BitVec.ofNat 8 g.val] → s.tables.copyInFlight = false → exec .readGroup s = answers c .ok
        (.groupEntry other s.tables.stagingBank.groups[g] (some s.tables.marks.groups[g])) (taken s rest)) ∧
      (c.args = [1, BitVec.ofNat 8 g.val] → s.tables.copyInFlight = true →
        exec .readGroup s = answers c .busy .empty (taken s rest))) ∧
    (AtHead s c rest 0x14 →
      (c.args = [0] → exec .readCycle s = answers c .ok (.cycleParams s.tables.active s.params none) (taken s rest)) ∧
      (c.args = [1] → s.tables.copyInFlight = false → exec .readCycle s = answers c .ok
        (.cycleParams other s.tables.stagingBank.cycle (some s.tables.marks.cycle)) (taken s rest)) ∧
      (c.args = [1] → s.tables.copyInFlight = true → exec .readCycle s = answers c .busy .empty (taken s rest)))

/-- The first condition of R112 that keeps a group from being ready is named with its detail, in their order, and none is named exactly
when all four hold (R112). -/
def Obligations.FailedConditionIsTheFirstOfFour : Prop :=
  ∀ (s : State) (g : Grp),
    let faultedMember := fun c : Chan =>
      (s.entry c).group = some g ∧ (s.entry c).mode = .guard ∧ (s.channel c).state = .faulted
    let pinHolds := (s.groupEntry g).pinBound = false ∨ s.tripHigh = true
    let linkHolds := (s.groupEntry g).linkBound = false ∨ s.tracker.state ≠ .nosync
    (∀ c : Chan, failedCondition s g = some (.member c) ↔ faultedMember c ∧ ∀ d : Chan, faultedMember d → c ≤ d) ∧
    ((∀ c : Chan, ¬ faultedMember c) →
      (¬ pinHolds → failedCondition s g = some .pin) ∧
      (pinHolds → ¬ linkHolds → failedCondition s g = some .link) ∧
      (pinHolds → linkHolds → (s.group g).holdoffLeft ≠ 0 →
        failedCondition s g = some (.holdoff (s.group g).holdoffLeft)) ∧
      (pinHolds → linkHolds → (s.group g).holdoffLeft = 0 → failedCondition s g = none))

/-- A WRITE-CHANNEL of any set of fields in any order, their values those of an entry in range in their wire form, makes exactly those
fields of the staging entry so and sets its mark; the list may be empty. The active bank and every other entry stand (R14, R16,
R175). -/
def Obligations.WriteChannelStoresTheFieldsItLists : Prop :=
  ∀ (s : State) (c : Command) (rest : List Command) (k : Chan) (e : ChannelEntry) (ns : List Nat), AtHead s c rest 0x11 →
    e.InRange → FieldNumbers 20 ns → c.args = BitVec.ofNat 8 k.val :: ns.flatMap e.item →
    s.tables.copyInFlight = false → s.tables.commit = none → s.tables.modeChange = false → ∃ t : TableStore,
      exec .writeChannel s = answers c .ok .empty { s with cmdFifo := rest, tables := t } ∧
        t.activeBank = s.tables.activeBank ∧ t.active = s.tables.active ∧ t.deviceMode = s.tables.deviceMode ∧
        t.commit = none ∧ t.modeChange = false ∧ t.copyInFlight = false ∧
        t.stagingBank =
          { s.tables.stagingBank with
            channels := s.tables.stagingBank.channels.set k (s.tables.stagingBank.channels[k].mix e ns) } ∧
        t.marks = { s.tables.marks with channels := s.tables.marks.channels.set k true }

/-- The same of WRITE-GROUP over its four fields and of WRITE-CYCLE over its three (R14, R16, R175). -/
def Obligations.WriteGroupAndCycleStoreTheFieldsTheyList : Prop :=
  ∀ (s : State) (c : Command) (rest : List Command) (ns : List Nat),
    s.tables.copyInFlight = false → s.tables.commit = none → s.tables.modeChange = false →
    (∀ (g : Grp) (e : GroupEntry), AtHead s c rest 0x13 → e.holdoff ≤ 255 → FieldNumbers 4 ns →
      c.args = BitVec.ofNat 8 g.val :: ns.flatMap e.item →
      ∃ t : TableStore, exec .writeGroup s = answers c .ok .empty { s with cmdFifo := rest, tables := t } ∧
        t.activeBank = s.tables.activeBank ∧ t.active = s.tables.active ∧ t.deviceMode = s.tables.deviceMode ∧
        t.commit = none ∧ t.modeChange = false ∧ t.copyInFlight = false ∧
        t.stagingBank =
          { s.tables.stagingBank with
            groups := s.tables.stagingBank.groups.set g (s.tables.stagingBank.groups[g].mix e ns) } ∧
        t.marks = { s.tables.marks with groups := s.tables.marks.groups.set g true }) ∧
    (∀ p : CycleParams, AtHead s c rest 0x15 → 10 ≤ p.cycleTimeout → p.cycleTimeout ≤ 65535 → 1 ≤ p.lossLimit →
      p.lossLimit ≤ 16 → FieldNumbers 3 ns → c.args = ns.flatMap p.item →
      ∃ t : TableStore, exec .writeCycle s = answers c .ok .empty { s with cmdFifo := rest, tables := t } ∧
        t.activeBank = s.tables.activeBank ∧ t.active = s.tables.active ∧ t.deviceMode = s.tables.deviceMode ∧
        t.commit = none ∧ t.modeChange = false ∧ t.copyInFlight = false ∧
        t.stagingBank = { s.tables.stagingBank with cycle := s.tables.stagingBank.cycle.mix p ns } ∧
        t.marks = { s.tables.marks with cycle := true })

/-- A write of a channel entry, a group entry or the cycle parameters is answered BUSY during a copy and PENDING while a commit or a mode
change is (R16, R124). An open bank refuses it BADARG with the number of the first item that is refused, every refused value of R17 and
every number that names no field, the items before it in range (R16, R17, R175). With a field number twice, an item not whole, or no
subject in range it is BADARG with no field, whatever the bank (R16). -/
def Obligations.WritesAreRefusedWhileTheBankIsClosed : Prop :=
  ∀ (s : State) (c : Command) (rest : List Command) (ns ms : List Nat) (n : Nat) (v after : List Byte),
    (AtHead s c rest 0x11 → ∀ (k : Chan) (e : ChannelEntry),
      let args := fun l => c.args = BitVec.ofNat 8 k.val :: l
      let bad := fun r => exec .writeChannel s = answers c .badArg r (taken s rest)
      (FieldNumbers 20 ns → args (ns.flatMap e.item) → ClosedToWrites s c rest .writeChannel) ∧
      (OpenToWrites s → e.InRange → FieldNumbers 20 (ns ++ n :: ms) → RefusedChannelValue n v →
        args (itemsAround (ns.flatMap e.item) n v (ms.flatMap e.item)) → bad (.field n)) ∧
      (OpenToWrites s → e.InRange → FieldNumbers 20 ns → ns.length < 20 → (n = 0 ∨ 20 < n) → n < 256 →
        args (itemsAround (ns.flatMap e.item) n [] after) → bad (.field n)) ∧
      ((∀ m ∈ ns, 1 ≤ m ∧ m ≤ 20) →
        (¬ ns.Nodup → args (ns.flatMap e.item) → bad .empty) ∧
        (1 ≤ n → n ≤ 20 → v.length < channelFieldWidth n → args (itemsAround (ns.flatMap e.item) n v []) → bad .empty))) ∧
    (AtHead s c rest 0x11 → (c.args = [] ∨ ∃ b l, c.args = b :: l ∧ 96 ≤ b.toNat) →
      exec .writeChannel s = answers c .badArg .empty (taken s rest)) ∧
    (AtHead s c rest 0x13 → ∀ (k : Grp) (e : GroupEntry),
      let args := fun l => c.args = BitVec.ofNat 8 k.val :: l
      let bad := fun r => exec .writeGroup s = answers c .badArg r (taken s rest)
      (FieldNumbers 4 ns → args (ns.flatMap e.item) → ClosedToWrites s c rest .writeGroup) ∧
      (OpenToWrites s → e.holdoff ≤ 255 → FieldNumbers 4 (ns ++ n :: ms) → RefusedGroupValue n v →
        args (itemsAround (ns.flatMap e.item) n v (ms.flatMap e.item)) → bad (.field n)) ∧
      (OpenToWrites s → e.holdoff ≤ 255 → FieldNumbers 4 ns → ns.length < 4 → (n = 0 ∨ 4 < n) → n < 256 →
        args (itemsAround (ns.flatMap e.item) n [] after) → bad (.field n)) ∧
      ((∀ m ∈ ns, 1 ≤ m ∧ m ≤ 4) →
        (¬ ns.Nodup → args (ns.flatMap e.item) → bad .empty) ∧
        (1 ≤ n → n ≤ 4 → args (itemsAround (ns.flatMap e.item) n [] []) → bad .empty))) ∧
    (AtHead s c rest 0x13 → (c.args = [] ∨ ∃ b l, c.args = b :: l ∧ 8 ≤ b.toNat) →
      exec .writeGroup s = answers c .badArg .empty (taken s rest)) ∧
    (AtHead s c rest 0x15 → ∀ p : CycleParams,
      let bad := fun r => exec .writeCycle s = answers c .badArg r (taken s rest)
      let fits := 10 ≤ p.cycleTimeout ∧ p.cycleTimeout ≤ 65535 ∧ 1 ≤ p.lossLimit ∧ p.lossLimit ≤ 16
      (FieldNumbers 3 ns → c.args = ns.flatMap p.item → ClosedToWrites s c rest .writeCycle) ∧
      (OpenToWrites s → fits → FieldNumbers 3 (ns ++ n :: ms) → RefusedCycleValue n v →
        c.args = itemsAround (ns.flatMap p.item) n v (ms.flatMap p.item) → bad (.field n)) ∧
      (OpenToWrites s → fits → FieldNumbers 3 ns → ns.length < 3 → (n = 0 ∨ 3 < n) → n < 256 →
        c.args = itemsAround (ns.flatMap p.item) n [] after → bad (.field n)) ∧
      ((∀ m ∈ ns, 1 ≤ m ∧ m ≤ 3) →
        (¬ ns.Nodup → c.args = ns.flatMap p.item → bad .empty) ∧
        (1 ≤ n → n ≤ 3 → v.length < cycleFieldWidth n → c.args = itemsAround (ns.flatMap p.item) n v [] → bad .empty)))

/-- COMMIT: BUSY during a copy, PENDING while something is pending, INVALID with the first failing entry and check, and for AT N NOSYNC
or LATE; accepted otherwise, which leaves the commit pending and nothing else changed (R124 to R127). -/
def Obligations.CommitIsJudgedInOrder : Prop :=
  ∀ (s : State) (c : Command) (rest : List Command) (k : CommitTarget), AtHead s c rest 0x20 → c.args = k.bytes →
    (s.tables.copyInFlight = true → exec .commit s = answers c .busy .empty (taken s rest)) ∧
    (s.tables.copyInFlight = false →
      (∀ t, s.tables.commit = some t → exec .commit s = answers c .pending (.pendingCommit t) (taken s rest)) ∧
      (s.tables.commit = none → s.tables.modeChange = true →
        exec .commit s = answers c .pending .pendingMode (taken s rest)) ∧
      (s.tables.commit = none → s.tables.modeChange = false →
        (∀ f, validate s.tables.stagingBank = some f →
          exec .commit s = answers c .invalid (.invalid f.1 f.2) (taken s rest)) ∧
        (validate s.tables.stagingBank = none →
          (∀ n, k = .atCycle n → s.tracker.state = .nosync → exec .commit s = answers c .noSync .empty (taken s rest)) ∧
          (∀ n, k = .atCycle n → s.tracker.state ≠ .nosync → ahead n s.tracker.lastCycle = false →
            exec .commit s = answers c .late (.late s.tracker.lastCycle) (taken s rest)) ∧
          ((k = .next ∨ ∃ n, k = .atCycle n ∧ s.tracker.state ≠ .nosync ∧ ahead n s.tracker.lastCycle = true) →
            exec .commit s = answers c .ok (.target k)
              { s with cmdFifo := rest, tables := { s.tables with commit := some k } }))))

/-- Validation passes exactly when every entry whose mode is not OFF meets the four relations, and else names the lowest-numbered
failing channel and the first of ORDER, WINDOW, PHASE and GROUP that it fails (R126). -/
def Obligations.ValidationMeansTheFourRelations : Prop :=
  ∀ b : Bank,
    let ordered := fun e : ChannelEntry =>
      e.lowLimit.toInt ≤ e.warnLow.toInt ∧ e.warnLow.toInt ≤ e.warnHigh.toInt ∧ e.warnHigh.toInt ≤ e.highLimit.toInt
    let good := fun e : ChannelEntry =>
      ordered e ∧ e.threshold ≤ e.window ∧ e.phase < e.period ∧ (e.trip = false ∨ e.group ≠ none)
    (validate b = none ↔ ∀ c : Chan, b.channels[c].mode = .off ∨ good b.channels[c]) ∧
    ∀ c k, validate b = some (c, k) →
      let e := b.channels[c]
      e.mode ≠ .off ∧ ¬ good e ∧ (∀ d : Chan, d < c → b.channels[d].mode = .off ∨ good b.channels[d]) ∧
        (k = .order ↔ ¬ ordered e) ∧ (k = .window ↔ ordered e ∧ e.window < e.threshold) ∧
        (k = .phase ↔ ordered e ∧ e.threshold ≤ e.window ∧ e.period ≤ e.phase) ∧
        (k = .group ↔ ordered e ∧ e.threshold ≤ e.window ∧ e.phase < e.period)

/-- CANCEL removes a pending commit and reports it; BYPASS is answered MODE in BYPASS, PENDING, or TRIPPED with the tripped groups, and
is else accepted as a pending change (R130, R138). -/
def Obligations.CancelAndBypassAnswers : Prop :=
  ∀ (s : State) (c : Command) (rest : List Command), c.args = [] →
    (AtHead s c rest 0x21 →
      exec .cancel s = answers c .ok (.cancelled s.tables.commit)
        { s with cmdFifo := rest, tables := { s.tables with commit := none } }) ∧
    (AtHead s c rest 0x22 →
      (s.tables.deviceMode = .bypass → exec .bypass s = answers c .mode .empty (taken s rest)) ∧
      (∀ t, s.tables.deviceMode = .active → s.tables.commit = some t →
        exec .bypass s = answers c .pending (.pendingCommit t) (taken s rest)) ∧
      (s.tables.deviceMode = .active → s.tables.commit = none → s.tables.modeChange = true →
        exec .bypass s = answers c .pending .pendingMode (taken s rest)) ∧
      (s.tables.deviceMode = .active → s.tables.commit = none → s.tables.modeChange = false →
        (∃ g : Grp, (s.group g).state = .tripped) →
        exec .bypass s = answers c .tripped
          (.trippedGroups (allGroups.filter (fun g => (s.group g).state == .tripped))) (taken s rest)) ∧
      (s.tables.deviceMode = .active → s.tables.commit = none → s.tables.modeChange = false →
        (∀ g : Grp, (s.group g).state = .armed) →
        exec .bypass s = answers c .ok .empty
          { s with cmdFifo := rest, tables := { s.tables with modeChange := true } }))

/-- LOG-ACK removes the records up to and including the one of its sequence, in list order, and is BADARG where no record has it;
LOG-CLEAR empties the log and the alert slot and keeps next_sequence (R148, R149). -/
def Obligations.LogAckAndClearRemoveFromTheFront : Prop :=
  ∀ (s : State) (c : Command) (rest : List Command),
    (∀ a b : Byte, AtHead s c rest 0x41 → c.args = [a, b] →
      (∀ (front back : List LogRecord) (r : LogRecord), s.log.records = front ++ r :: back →
        r.sequence.toNat = a.toNat * 256 + b.toNat → (∀ x ∈ front, x.sequence ≠ r.sequence) →
        exec .logAck s = answers c .ok (.logAcked (front.length + 1) back.length)
          { s with cmdFifo := rest, log := { s.log with records := back } }) ∧
      ((∀ x ∈ s.log.records, x.sequence.toNat ≠ a.toNat * 256 + b.toNat) →
        exec .logAck s = answers c .badArg .empty (taken s rest))) ∧
    (AtHead s c rest 0x42 → c.args = [] →
      exec .logClear s = answers c .ok (.logCleared s.log.records.length s.log.lost)
        { s with cmdFifo := rest, log := ⟨[], s.log.nextSequence, 0⟩, alertSlot := none })

/-- TEST of any kind: MODE in BYPASS, BUSY while a test is pending, BADARG with the channel of an OFF channel; else it waits for the
next close, or in NOSYNC runs at once and writes the whole last result, PASS or FAIL, with no cycle (R158, R159, R160). At stage 3 of a
close the pending test runs with that close's number as its cycle, writes the whole last result and nothing else, and is IDLE; with none
pending nothing is done (R33, R159, R160). TEST-RESULT
reports the record as it stands, and with clear yes then sets the last result to NONE, the pending test standing (R167). -/
def Obligations.TestCommandsAcceptRunAndReport : Prop :=
  (∀ (n : CycleNo) (s : State), (s.test.pending = none → runPendingTest n s = s) ∧
    ∀ p, s.test.pending = some p →
      let f := testFinding p s
      runPendingTest n s =
        { s with test := ⟨none, ⟨f.outcome, some p.expectation.kind, some p.channel, f.observed, f.detail, some n⟩⟩ }) ∧
  ∀ (s : State) (c : Command) (rest : List Command),
    (∀ p : PendingTest, AtHead s c rest 0x50 → c.args = p.args → p.expectation.InRange →
      (s.tables.deviceMode = .bypass → exec .test s = answers c .mode .empty (taken s rest)) ∧
      (∀ q, s.tables.deviceMode = .active → s.test.pending = some q →
        exec .test s = answers c .busy (.busyTest q.expectation.kind q.channel) (taken s rest)) ∧
      (s.tables.deviceMode = .active → s.test.pending = none →
        ((s.entry p.channel).mode = .off →
          exec .test s = answers c .badArg (.offChannel p.channel) (taken s rest)) ∧
        ((s.entry p.channel).mode ≠ .off → s.tracker.state ≠ .nosync →
          exec .test s = answers c .ok .testPending
            { s with cmdFifo := rest, test := { s.test with pending := some p } }) ∧
        ((s.entry p.channel).mode ≠ .off → s.tracker.state = .nosync → ∃ f : TestFinding,
          exec .test s = answers c .ok .testRan
            { s with cmdFifo := rest,
                     test := ⟨none, ⟨f.outcome, some p.expectation.kind, some p.channel, f.observed, f.detail, none⟩⟩ } ∧
          f = testFinding p s ∧ (f.outcome = .pass ∨ f.outcome = .fail)))) ∧
    (AtHead s c rest 0x51 → c.args = [0] → exec .testResult s = answers c .ok (.testRecord s.test) (taken s rest)) ∧
    (AtHead s c rest 0x51 → c.args = [1] → exec .testResult s = answers c .ok (.testRecord s.test)
      { s with cmdFifo := rest, test := ⟨s.test.pending, ⟨.none, none, none, none, none, none⟩⟩ })

/-- What a test run finds, by its kind, outcome, observed field and detail: LIMIT the limit checks alone, observing the set of HIGH and
LOW raised; RATE the rate check, observing it raised or not, and NOBASE without a baseline; QUALIFY the count P of a validated entry; FILL
the value of R97 with its quality. A channel now OFF aborts it. It passes exactly when what is observed agrees with the expectation, the
quality apart (R157, R160 to R164). -/
def Obligations.TestFindsWhatTheChecksWouldFind : Prop :=
  ∀ (s : State) (k : Chan) (x : Sample),
    let e := s.entry k
    let v := conditioned e x
    let verdict := fun agrees : Bool => if agrees then TestOutcome.pass else .fail
    (∀ p : PendingTest, (s.entry p.channel).mode = .off → testFinding p s = ⟨.aborted, none, some .off⟩) ∧
    (e.mode ≠ .off →
      (∀ high low : Bool,
        let raisedHigh := e.classes.high && decide (e.highLimit.toInt < v.toInt)
        let raisedLow := e.classes.low && decide (v.toInt < e.lowLimit.toInt)
        testFinding ⟨.limit high low, k, x⟩ s =
          ⟨verdict (raisedHigh == high && raisedLow == low),
            some (.classes { ClassSet.none with high := raisedHigh, low := raisedLow }), none⟩) ∧
      (∀ yes : Bool, (s.channel k).rateBase = none → testFinding ⟨.rate yes, k, x⟩ s = ⟨.fail, none, some .noBase⟩) ∧
      (∀ (yes : Bool) (b : Sample), (s.channel k).rateBase = some b →
        let raised := e.classes.rate && decide (0 < e.rateLimit) && decide (e.rateLimit < (v.toInt - b.toInt).natAbs)
        testFinding ⟨.rate yes, k, x⟩ s =
          ⟨verdict (raised == yes), some (.classes { ClassSet.none with rate := raised }), none⟩) ∧
      (∀ n : Nat, 1 ≤ e.threshold → e.threshold ≤ e.window → e.window ≤ 16 →
        testFinding ⟨.qualify n, k, x⟩ s = ⟨verdict (n == e.threshold), some (.count e.threshold), none⟩) ∧
      (∀ w : Sample,
        let held := (s.channel k).lastGood.getD e.safeValue
        let found : Sample × Quality :=
          if e.mode = .guard ∧ ∃ g : Grp, e.group = some g ∧ (s.group g).state = .tripped then (e.safeValue, .subst)
          else if e.mode = .guard ∧ (s.channel k).state = .faulted ∧ e.reaction = .safe then (e.safeValue, .subst)
          else if e.mode = .guard ∧ (s.channel k).state = .faulted ∧ e.reaction = .mark then (held, .bad)
          else (held, .subst)
        testFinding ⟨.fill w, k, x⟩ s = ⟨verdict (found.1 == w), some (.value found.1 found.2), none⟩))

/-- RESET RUNTIME resets every runtime record to its mode, the eight counters, lost_total and consecutive_lost, and RESET LOG empties the
log and the alert slot; both keep all else (R68, R182, R183). RESET DEVICE gives the power-on state but for the node address, the link
states, the TRIP_N level, the frames on the lines and the contents of the Forward and Return Queues, whose marks are removed, and its
reply is the first of the emptied reply list (R184, R192; log 12); what the receivers keep stays with their link states (log 7: the
model's choice). A malformed RESET is BADARG on whichever row takes it (R182; log 15). -/
def Obligations.ResetScopesResetWhatTheyName : Prop :=
  ∀ (s : State) (c : Command) (rest : List Command), AtHead s c rest 0x60 →
    (c.args = [0] → ∃ u : State, exec .resetRuntime s = answers c .ok (.scope .runtime) u ∧
      u = { s with cmdFifo := rest, channels := u.channels, counters := .zero,
                   tracker := { s.tracker with consecutiveLost := 0, lostTotal := 0 } } ∧
      ∀ k : Chan, u.channel k =
        .fresh (if s.tables.deviceMode = .active ∧ (s.entry k).mode ≠ .off then .clean else .idle)) ∧
    (c.args = [1] → exec .resetLog s = answers c .ok (.scope .log)
      { s with cmdFifo := rest, log := ⟨[], s.log.nextSequence, 0⟩, alertSlot := none }) ∧
    (c.args = [2] → ForwardSettled s → ∃ u : State, exec .resetDevice s = answers c .ok (.scope .device) u ∧
      u = { State.reset with
            nodeAddr := s.nodeAddr, tripHigh := s.tripHigh, upU := s.upU, upD := s.upD, rxU := s.rxU, rxD := s.rxD,
            txD := s.txD, txU := s.txU,
            forward := s.forward.map (fun q => { q with ending := false }), ret := s.ret, pending := s.pending } ∧
      u.replies = [] ∧ u.cmdFifo = [] ∧ u.faultLow = false ∧ u.slotOwed = false ∧ u.tables.deviceMode = .bypass ∧
      u.tracker.state = .nosync ∧ u.log.records = [] ∧ u.counters = .zero) ∧
    (c.args ≠ [0] → c.args ≠ [1] → c.args ≠ [2] →
      exec .resetRuntime s = answers c .badArg .empty (taken s rest) ∧
      exec .resetLog s = answers c .badArg .empty (taken s rest) ∧
      exec .resetDevice s = answers c .badArg .empty (taken s rest))

/-- The end of a bank copy: every staging entry equals its active entry, all 105 marks are clear, the copy is idle, and the active bank
is untouched; with no copy in flight nothing ends (R134; log 4). -/
def Obligations.BankCopyMakesTheBanksEqual : Prop :=
  ∀ s : State,
    (s.tables.copyInFlight = false → exec .bankCopyComplete s = .next (settle s)) ∧
    (s.tables.copyInFlight = true → ∃ t : TableStore,
      exec .bankCopyComplete s = .next (settle { s with tables := t }) ∧
        t.activeBank = s.tables.activeBank ∧ t.stagingBank = s.tables.activeBank ∧ t.active = s.tables.active ∧
        t.commit = s.tables.commit ∧ t.modeChange = s.tables.modeChange ∧ t.deviceMode = s.tables.deviceMode ∧
        t.copyInFlight = false ∧ t.marks.cycle = false ∧ (∀ c : Chan, t.marks.channels[c] = false) ∧
        ∀ g : Grp, t.marks.groups[g] = false)

/-! ### Invariants that every step keeps -/

/-- The queues stay within their places, and between steps every forward frame is complete with the reserved place held by a FILL alone
(R168, R189 to R191). What the receivers keep stays sound: no run of 64 IDLE, no fourth violation within reach, no frame beyond 513 bytes
(R187, R188). -/
def Obligations.QueuesStayWithinTheirPlaces : Prop :=
  (∀ s t : State, QueuesBounded s → ForwardSettled s → step s = .next t → QueuesBounded t ∧ ForwardSettled t) ∧
  ∀ s t : State, ReceiversSound s → step s = .next t → ReceiversSound t

/-- Group records stay well formed, a group is TRIPPED only in ACTIVE, and FAULT_N is low exactly while a group is TRIPPED (R102, R103,
R106). -/
def Obligations.GroupsAndFaultPinStaySound : Prop :=
  ∀ s t : State, GroupsSound s → FaultPinHonest s → step s = .next t → GroupsSound t ∧ FaultPinHonest t

/-- The log holds at most 64 records with consecutive numbers, the next one next_sequence (R144). -/
def Obligations.LogStaysNumbered : Prop :=
  ∀ s t : State, LogSound s.log → step s = .next t → LogSound t.log

/-- At most one change is pending, none during a copy that is a commit, and a mode change or a test only in ACTIVE (R124, R134). -/
def Obligations.AtMostOneChangeIsPending : Prop :=
  ∀ s t : State, PendingSound s → step s = .next t → PendingSound t

/-- Unmarked staging entries agree with the active ones whenever no copy is in flight (R15). -/
def Obligations.UnmarkedStagingAgrees : Prop :=
  ∀ s t : State, StagingAgrees s.tables → step s = .next t → StagingAgrees t.tables

/-- Every field of both banks stays in its range (R5, R9, R12), and what is active or pending has passed validation (R57, R126). -/
def Obligations.TablesStayInRangeAndValid : Prop :=
  ∀ s t : State, TablesInRange s.tables → TablesValid s.tables → step s = .next t →
    TablesInRange t.tables ∧ TablesValid t.tables

/-- The timer is stopped exactly in NOSYNC, and the link is lost before consecutive_lost reaches the active loss_limit (R21, R35,
R36). -/
def Obligations.TimerAndLossCountsStaySound : Prop :=
  ∀ s t : State, TimerSound s → LossSound s → TablesInRange s.tables → step s = .next t → TimerSound t ∧ LossSound t

/-- The conditions that every runtime record meets at all times (R66, R67), with what keeps them. -/
def Obligations.RuntimeRecordsStaySound : Prop :=
  ∀ s t : State, ChannelsSound s → step s = .next t → ChannelsSound t
end

