-- ==== Sys2Proof/Laws/State.lean ====
section
/-! SUPPORT. The frame of every shared operation: one equation that names the fields the operation may change, and from it one
@[simp] lemma per field it leaves as it was. Later proofs cite these instead of unfolding an operation. -/

namespace Sys2Proof.Machine

theorem setChannel_frame (c : Chan) (r : ChannelRecord) (s : State) :
    s.setChannel c r = { s with channels := (s.setChannel c r).channels } := rfl

@[simp] theorem setChannel_nodeAddr (c : Chan) (r : ChannelRecord) (s : State) : (s.setChannel c r).nodeAddr = s.nodeAddr := by rw [setChannel_frame]
@[simp] theorem setChannel_tripHigh (c : Chan) (r : ChannelRecord) (s : State) : (s.setChannel c r).tripHigh = s.tripHigh := by rw [setChannel_frame]
@[simp] theorem setChannel_faultLow (c : Chan) (r : ChannelRecord) (s : State) : (s.setChannel c r).faultLow = s.faultLow := by rw [setChannel_frame]
@[simp] theorem setChannel_upU (c : Chan) (r : ChannelRecord) (s : State) : (s.setChannel c r).upU = s.upU := by rw [setChannel_frame]
@[simp] theorem setChannel_upD (c : Chan) (r : ChannelRecord) (s : State) : (s.setChannel c r).upD = s.upD := by rw [setChannel_frame]
@[simp] theorem setChannel_rxU (c : Chan) (r : ChannelRecord) (s : State) : (s.setChannel c r).rxU = s.rxU := by rw [setChannel_frame]
@[simp] theorem setChannel_rxD (c : Chan) (r : ChannelRecord) (s : State) : (s.setChannel c r).rxD = s.rxD := by rw [setChannel_frame]
@[simp] theorem setChannel_txD (c : Chan) (r : ChannelRecord) (s : State) : (s.setChannel c r).txD = s.txD := by rw [setChannel_frame]
@[simp] theorem setChannel_txU (c : Chan) (r : ChannelRecord) (s : State) : (s.setChannel c r).txU = s.txU := by rw [setChannel_frame]
@[simp] theorem setChannel_forward (c : Chan) (r : ChannelRecord) (s : State) : (s.setChannel c r).forward = s.forward := by rw [setChannel_frame]
@[simp] theorem setChannel_ret (c : Chan) (r : ChannelRecord) (s : State) : (s.setChannel c r).ret = s.ret := by rw [setChannel_frame]
@[simp] theorem setChannel_replies (c : Chan) (r : ChannelRecord) (s : State) : (s.setChannel c r).replies = s.replies := by rw [setChannel_frame]
@[simp] theorem setChannel_alertSlot (c : Chan) (r : ChannelRecord) (s : State) : (s.setChannel c r).alertSlot = s.alertSlot := by rw [setChannel_frame]
@[simp] theorem setChannel_slotOwed (c : Chan) (r : ChannelRecord) (s : State) : (s.setChannel c r).slotOwed = s.slotOwed := by rw [setChannel_frame]
@[simp] theorem setChannel_counters (c : Chan) (r : ChannelRecord) (s : State) : (s.setChannel c r).counters = s.counters := by rw [setChannel_frame]
@[simp] theorem setChannel_tables (c : Chan) (r : ChannelRecord) (s : State) : (s.setChannel c r).tables = s.tables := by rw [setChannel_frame]
@[simp] theorem setChannel_tracker (c : Chan) (r : ChannelRecord) (s : State) : (s.setChannel c r).tracker = s.tracker := by rw [setChannel_frame]
@[simp] theorem setChannel_repeats (c : Chan) (r : ChannelRecord) (s : State) : (s.setChannel c r).repeats = s.repeats := by rw [setChannel_frame]
@[simp] theorem setChannel_groups (c : Chan) (r : ChannelRecord) (s : State) : (s.setChannel c r).groups = s.groups := by rw [setChannel_frame]
@[simp] theorem setChannel_log (c : Chan) (r : ChannelRecord) (s : State) : (s.setChannel c r).log = s.log := by rw [setChannel_frame]
@[simp] theorem setChannel_test (c : Chan) (r : ChannelRecord) (s : State) : (s.setChannel c r).test = s.test := by rw [setChannel_frame]
@[simp] theorem setChannel_cmdFifo (c : Chan) (r : ChannelRecord) (s : State) : (s.setChannel c r).cmdFifo = s.cmdFifo := by rw [setChannel_frame]
@[simp] theorem setChannel_pending (c : Chan) (r : ChannelRecord) (s : State) : (s.setChannel c r).pending = s.pending := by rw [setChannel_frame]

theorem setGroup_frame (g : Grp) (r : GroupRecord) (s : State) :
    s.setGroup g r = { s with groups := (s.setGroup g r).groups } := rfl

@[simp] theorem setGroup_nodeAddr (g : Grp) (r : GroupRecord) (s : State) : (s.setGroup g r).nodeAddr = s.nodeAddr := by rw [setGroup_frame]
@[simp] theorem setGroup_tripHigh (g : Grp) (r : GroupRecord) (s : State) : (s.setGroup g r).tripHigh = s.tripHigh := by rw [setGroup_frame]
@[simp] theorem setGroup_faultLow (g : Grp) (r : GroupRecord) (s : State) : (s.setGroup g r).faultLow = s.faultLow := by rw [setGroup_frame]
@[simp] theorem setGroup_upU (g : Grp) (r : GroupRecord) (s : State) : (s.setGroup g r).upU = s.upU := by rw [setGroup_frame]
@[simp] theorem setGroup_upD (g : Grp) (r : GroupRecord) (s : State) : (s.setGroup g r).upD = s.upD := by rw [setGroup_frame]
@[simp] theorem setGroup_rxU (g : Grp) (r : GroupRecord) (s : State) : (s.setGroup g r).rxU = s.rxU := by rw [setGroup_frame]
@[simp] theorem setGroup_rxD (g : Grp) (r : GroupRecord) (s : State) : (s.setGroup g r).rxD = s.rxD := by rw [setGroup_frame]
@[simp] theorem setGroup_txD (g : Grp) (r : GroupRecord) (s : State) : (s.setGroup g r).txD = s.txD := by rw [setGroup_frame]
@[simp] theorem setGroup_txU (g : Grp) (r : GroupRecord) (s : State) : (s.setGroup g r).txU = s.txU := by rw [setGroup_frame]
@[simp] theorem setGroup_forward (g : Grp) (r : GroupRecord) (s : State) : (s.setGroup g r).forward = s.forward := by rw [setGroup_frame]
@[simp] theorem setGroup_ret (g : Grp) (r : GroupRecord) (s : State) : (s.setGroup g r).ret = s.ret := by rw [setGroup_frame]
@[simp] theorem setGroup_replies (g : Grp) (r : GroupRecord) (s : State) : (s.setGroup g r).replies = s.replies := by rw [setGroup_frame]
@[simp] theorem setGroup_alertSlot (g : Grp) (r : GroupRecord) (s : State) : (s.setGroup g r).alertSlot = s.alertSlot := by rw [setGroup_frame]
@[simp] theorem setGroup_slotOwed (g : Grp) (r : GroupRecord) (s : State) : (s.setGroup g r).slotOwed = s.slotOwed := by rw [setGroup_frame]
@[simp] theorem setGroup_counters (g : Grp) (r : GroupRecord) (s : State) : (s.setGroup g r).counters = s.counters := by rw [setGroup_frame]
@[simp] theorem setGroup_tables (g : Grp) (r : GroupRecord) (s : State) : (s.setGroup g r).tables = s.tables := by rw [setGroup_frame]
@[simp] theorem setGroup_tracker (g : Grp) (r : GroupRecord) (s : State) : (s.setGroup g r).tracker = s.tracker := by rw [setGroup_frame]
@[simp] theorem setGroup_repeats (g : Grp) (r : GroupRecord) (s : State) : (s.setGroup g r).repeats = s.repeats := by rw [setGroup_frame]
@[simp] theorem setGroup_channels (g : Grp) (r : GroupRecord) (s : State) : (s.setGroup g r).channels = s.channels := by rw [setGroup_frame]
@[simp] theorem setGroup_log (g : Grp) (r : GroupRecord) (s : State) : (s.setGroup g r).log = s.log := by rw [setGroup_frame]
@[simp] theorem setGroup_test (g : Grp) (r : GroupRecord) (s : State) : (s.setGroup g r).test = s.test := by rw [setGroup_frame]
@[simp] theorem setGroup_cmdFifo (g : Grp) (r : GroupRecord) (s : State) : (s.setGroup g r).cmdFifo = s.cmdFifo := by rw [setGroup_frame]
@[simp] theorem setGroup_pending (g : Grp) (r : GroupRecord) (s : State) : (s.setGroup g r).pending = s.pending := by rw [setGroup_frame]

theorem markSeen_frame (c : Chan) (s : State) :
    s.markSeen c = { s with tracker := (s.markSeen c).tracker } := rfl

@[simp] theorem markSeen_nodeAddr (c : Chan) (s : State) : (s.markSeen c).nodeAddr = s.nodeAddr := by rw [markSeen_frame]
@[simp] theorem markSeen_tripHigh (c : Chan) (s : State) : (s.markSeen c).tripHigh = s.tripHigh := by rw [markSeen_frame]
@[simp] theorem markSeen_faultLow (c : Chan) (s : State) : (s.markSeen c).faultLow = s.faultLow := by rw [markSeen_frame]
@[simp] theorem markSeen_upU (c : Chan) (s : State) : (s.markSeen c).upU = s.upU := by rw [markSeen_frame]
@[simp] theorem markSeen_upD (c : Chan) (s : State) : (s.markSeen c).upD = s.upD := by rw [markSeen_frame]
@[simp] theorem markSeen_rxU (c : Chan) (s : State) : (s.markSeen c).rxU = s.rxU := by rw [markSeen_frame]
@[simp] theorem markSeen_rxD (c : Chan) (s : State) : (s.markSeen c).rxD = s.rxD := by rw [markSeen_frame]
@[simp] theorem markSeen_txD (c : Chan) (s : State) : (s.markSeen c).txD = s.txD := by rw [markSeen_frame]
@[simp] theorem markSeen_txU (c : Chan) (s : State) : (s.markSeen c).txU = s.txU := by rw [markSeen_frame]
@[simp] theorem markSeen_forward (c : Chan) (s : State) : (s.markSeen c).forward = s.forward := by rw [markSeen_frame]
@[simp] theorem markSeen_ret (c : Chan) (s : State) : (s.markSeen c).ret = s.ret := by rw [markSeen_frame]
@[simp] theorem markSeen_replies (c : Chan) (s : State) : (s.markSeen c).replies = s.replies := by rw [markSeen_frame]
@[simp] theorem markSeen_alertSlot (c : Chan) (s : State) : (s.markSeen c).alertSlot = s.alertSlot := by rw [markSeen_frame]
@[simp] theorem markSeen_slotOwed (c : Chan) (s : State) : (s.markSeen c).slotOwed = s.slotOwed := by rw [markSeen_frame]
@[simp] theorem markSeen_counters (c : Chan) (s : State) : (s.markSeen c).counters = s.counters := by rw [markSeen_frame]
@[simp] theorem markSeen_tables (c : Chan) (s : State) : (s.markSeen c).tables = s.tables := by rw [markSeen_frame]
@[simp] theorem markSeen_repeats (c : Chan) (s : State) : (s.markSeen c).repeats = s.repeats := by rw [markSeen_frame]
@[simp] theorem markSeen_channels (c : Chan) (s : State) : (s.markSeen c).channels = s.channels := by rw [markSeen_frame]
@[simp] theorem markSeen_groups (c : Chan) (s : State) : (s.markSeen c).groups = s.groups := by rw [markSeen_frame]
@[simp] theorem markSeen_log (c : Chan) (s : State) : (s.markSeen c).log = s.log := by rw [markSeen_frame]
@[simp] theorem markSeen_test (c : Chan) (s : State) : (s.markSeen c).test = s.test := by rw [markSeen_frame]
@[simp] theorem markSeen_cmdFifo (c : Chan) (s : State) : (s.markSeen c).cmdFifo = s.cmdFifo := by rw [markSeen_frame]
@[simp] theorem markSeen_pending (c : Chan) (s : State) : (s.markSeen c).pending = s.pending := by rw [markSeen_frame]

theorem submit_frame (n : Option CycleNo) (b : RecordBody) (s : State) :
    submit n b s = { s with alertSlot := (submit n b s).alertSlot, log := (submit n b s).log } := rfl

@[simp] theorem submit_nodeAddr (n : Option CycleNo) (b : RecordBody) (s : State) : (submit n b s).nodeAddr = s.nodeAddr := by rw [submit_frame]
@[simp] theorem submit_tripHigh (n : Option CycleNo) (b : RecordBody) (s : State) : (submit n b s).tripHigh = s.tripHigh := by rw [submit_frame]
@[simp] theorem submit_faultLow (n : Option CycleNo) (b : RecordBody) (s : State) : (submit n b s).faultLow = s.faultLow := by rw [submit_frame]
@[simp] theorem submit_upU (n : Option CycleNo) (b : RecordBody) (s : State) : (submit n b s).upU = s.upU := by rw [submit_frame]
@[simp] theorem submit_upD (n : Option CycleNo) (b : RecordBody) (s : State) : (submit n b s).upD = s.upD := by rw [submit_frame]
@[simp] theorem submit_rxU (n : Option CycleNo) (b : RecordBody) (s : State) : (submit n b s).rxU = s.rxU := by rw [submit_frame]
@[simp] theorem submit_rxD (n : Option CycleNo) (b : RecordBody) (s : State) : (submit n b s).rxD = s.rxD := by rw [submit_frame]
@[simp] theorem submit_txD (n : Option CycleNo) (b : RecordBody) (s : State) : (submit n b s).txD = s.txD := by rw [submit_frame]
@[simp] theorem submit_txU (n : Option CycleNo) (b : RecordBody) (s : State) : (submit n b s).txU = s.txU := by rw [submit_frame]
@[simp] theorem submit_forward (n : Option CycleNo) (b : RecordBody) (s : State) : (submit n b s).forward = s.forward := by rw [submit_frame]
@[simp] theorem submit_ret (n : Option CycleNo) (b : RecordBody) (s : State) : (submit n b s).ret = s.ret := by rw [submit_frame]
@[simp] theorem submit_replies (n : Option CycleNo) (b : RecordBody) (s : State) : (submit n b s).replies = s.replies := by rw [submit_frame]
@[simp] theorem submit_slotOwed (n : Option CycleNo) (b : RecordBody) (s : State) : (submit n b s).slotOwed = s.slotOwed := by rw [submit_frame]
@[simp] theorem submit_counters (n : Option CycleNo) (b : RecordBody) (s : State) : (submit n b s).counters = s.counters := by rw [submit_frame]
@[simp] theorem submit_tables (n : Option CycleNo) (b : RecordBody) (s : State) : (submit n b s).tables = s.tables := by rw [submit_frame]
@[simp] theorem submit_tracker (n : Option CycleNo) (b : RecordBody) (s : State) : (submit n b s).tracker = s.tracker := by rw [submit_frame]
@[simp] theorem submit_repeats (n : Option CycleNo) (b : RecordBody) (s : State) : (submit n b s).repeats = s.repeats := by rw [submit_frame]
@[simp] theorem submit_channels (n : Option CycleNo) (b : RecordBody) (s : State) : (submit n b s).channels = s.channels := by rw [submit_frame]
@[simp] theorem submit_groups (n : Option CycleNo) (b : RecordBody) (s : State) : (submit n b s).groups = s.groups := by rw [submit_frame]
@[simp] theorem submit_test (n : Option CycleNo) (b : RecordBody) (s : State) : (submit n b s).test = s.test := by rw [submit_frame]
@[simp] theorem submit_cmdFifo (n : Option CycleNo) (b : RecordBody) (s : State) : (submit n b s).cmdFifo = s.cmdFifo := by rw [submit_frame]
@[simp] theorem submit_pending (n : Option CycleNo) (b : RecordBody) (s : State) : (submit n b s).pending = s.pending := by rw [submit_frame]

theorem clearLog_frame (s : State) :
    clearLog s = { s with alertSlot := (clearLog s).alertSlot, log := (clearLog s).log } := rfl

@[simp] theorem clearLog_nodeAddr (s : State) : (clearLog s).nodeAddr = s.nodeAddr := by rw [clearLog_frame]
@[simp] theorem clearLog_tripHigh (s : State) : (clearLog s).tripHigh = s.tripHigh := by rw [clearLog_frame]
@[simp] theorem clearLog_faultLow (s : State) : (clearLog s).faultLow = s.faultLow := by rw [clearLog_frame]
@[simp] theorem clearLog_upU (s : State) : (clearLog s).upU = s.upU := by rw [clearLog_frame]
@[simp] theorem clearLog_upD (s : State) : (clearLog s).upD = s.upD := by rw [clearLog_frame]
@[simp] theorem clearLog_rxU (s : State) : (clearLog s).rxU = s.rxU := by rw [clearLog_frame]
@[simp] theorem clearLog_rxD (s : State) : (clearLog s).rxD = s.rxD := by rw [clearLog_frame]
@[simp] theorem clearLog_txD (s : State) : (clearLog s).txD = s.txD := by rw [clearLog_frame]
@[simp] theorem clearLog_txU (s : State) : (clearLog s).txU = s.txU := by rw [clearLog_frame]
@[simp] theorem clearLog_forward (s : State) : (clearLog s).forward = s.forward := by rw [clearLog_frame]
@[simp] theorem clearLog_ret (s : State) : (clearLog s).ret = s.ret := by rw [clearLog_frame]
@[simp] theorem clearLog_replies (s : State) : (clearLog s).replies = s.replies := by rw [clearLog_frame]
@[simp] theorem clearLog_slotOwed (s : State) : (clearLog s).slotOwed = s.slotOwed := by rw [clearLog_frame]
@[simp] theorem clearLog_counters (s : State) : (clearLog s).counters = s.counters := by rw [clearLog_frame]
@[simp] theorem clearLog_tables (s : State) : (clearLog s).tables = s.tables := by rw [clearLog_frame]
@[simp] theorem clearLog_tracker (s : State) : (clearLog s).tracker = s.tracker := by rw [clearLog_frame]
@[simp] theorem clearLog_repeats (s : State) : (clearLog s).repeats = s.repeats := by rw [clearLog_frame]
@[simp] theorem clearLog_channels (s : State) : (clearLog s).channels = s.channels := by rw [clearLog_frame]
@[simp] theorem clearLog_groups (s : State) : (clearLog s).groups = s.groups := by rw [clearLog_frame]
@[simp] theorem clearLog_test (s : State) : (clearLog s).test = s.test := by rw [clearLog_frame]
@[simp] theorem clearLog_cmdFifo (s : State) : (clearLog s).cmdFifo = s.cmdFifo := by rw [clearLog_frame]
@[simp] theorem clearLog_pending (s : State) : (clearLog s).pending = s.pending := by rw [clearLog_frame]

theorem resetRecords_frame (m : Vector Bool 96) (s : State) :
    resetRecords m s = { s with channels := (resetRecords m s).channels } := rfl

@[simp] theorem resetRecords_nodeAddr (m : Vector Bool 96) (s : State) : (resetRecords m s).nodeAddr = s.nodeAddr := by rw [resetRecords_frame]
@[simp] theorem resetRecords_tripHigh (m : Vector Bool 96) (s : State) : (resetRecords m s).tripHigh = s.tripHigh := by rw [resetRecords_frame]
@[simp] theorem resetRecords_faultLow (m : Vector Bool 96) (s : State) : (resetRecords m s).faultLow = s.faultLow := by rw [resetRecords_frame]
@[simp] theorem resetRecords_upU (m : Vector Bool 96) (s : State) : (resetRecords m s).upU = s.upU := by rw [resetRecords_frame]
@[simp] theorem resetRecords_upD (m : Vector Bool 96) (s : State) : (resetRecords m s).upD = s.upD := by rw [resetRecords_frame]
@[simp] theorem resetRecords_rxU (m : Vector Bool 96) (s : State) : (resetRecords m s).rxU = s.rxU := by rw [resetRecords_frame]
@[simp] theorem resetRecords_rxD (m : Vector Bool 96) (s : State) : (resetRecords m s).rxD = s.rxD := by rw [resetRecords_frame]
@[simp] theorem resetRecords_txD (m : Vector Bool 96) (s : State) : (resetRecords m s).txD = s.txD := by rw [resetRecords_frame]
@[simp] theorem resetRecords_txU (m : Vector Bool 96) (s : State) : (resetRecords m s).txU = s.txU := by rw [resetRecords_frame]
@[simp] theorem resetRecords_forward (m : Vector Bool 96) (s : State) : (resetRecords m s).forward = s.forward := by rw [resetRecords_frame]
@[simp] theorem resetRecords_ret (m : Vector Bool 96) (s : State) : (resetRecords m s).ret = s.ret := by rw [resetRecords_frame]
@[simp] theorem resetRecords_replies (m : Vector Bool 96) (s : State) : (resetRecords m s).replies = s.replies := by rw [resetRecords_frame]
@[simp] theorem resetRecords_alertSlot (m : Vector Bool 96) (s : State) : (resetRecords m s).alertSlot = s.alertSlot := by rw [resetRecords_frame]
@[simp] theorem resetRecords_slotOwed (m : Vector Bool 96) (s : State) : (resetRecords m s).slotOwed = s.slotOwed := by rw [resetRecords_frame]
@[simp] theorem resetRecords_counters (m : Vector Bool 96) (s : State) : (resetRecords m s).counters = s.counters := by rw [resetRecords_frame]
@[simp] theorem resetRecords_tables (m : Vector Bool 96) (s : State) : (resetRecords m s).tables = s.tables := by rw [resetRecords_frame]
@[simp] theorem resetRecords_tracker (m : Vector Bool 96) (s : State) : (resetRecords m s).tracker = s.tracker := by rw [resetRecords_frame]
@[simp] theorem resetRecords_repeats (m : Vector Bool 96) (s : State) : (resetRecords m s).repeats = s.repeats := by rw [resetRecords_frame]
@[simp] theorem resetRecords_groups (m : Vector Bool 96) (s : State) : (resetRecords m s).groups = s.groups := by rw [resetRecords_frame]
@[simp] theorem resetRecords_log (m : Vector Bool 96) (s : State) : (resetRecords m s).log = s.log := by rw [resetRecords_frame]
@[simp] theorem resetRecords_test (m : Vector Bool 96) (s : State) : (resetRecords m s).test = s.test := by rw [resetRecords_frame]
@[simp] theorem resetRecords_cmdFifo (m : Vector Bool 96) (s : State) : (resetRecords m s).cmdFifo = s.cmdFifo := by rw [resetRecords_frame]
@[simp] theorem resetRecords_pending (m : Vector Bool 96) (s : State) : (resetRecords m s).pending = s.pending := by rw [resetRecords_frame]

theorem resetAllRecords_frame (s : State) :
    resetAllRecords s = { s with channels := (resetAllRecords s).channels } := rfl

@[simp] theorem resetAllRecords_nodeAddr (s : State) : (resetAllRecords s).nodeAddr = s.nodeAddr := by rw [resetAllRecords_frame]
@[simp] theorem resetAllRecords_tripHigh (s : State) : (resetAllRecords s).tripHigh = s.tripHigh := by rw [resetAllRecords_frame]
@[simp] theorem resetAllRecords_faultLow (s : State) : (resetAllRecords s).faultLow = s.faultLow := by rw [resetAllRecords_frame]
@[simp] theorem resetAllRecords_upU (s : State) : (resetAllRecords s).upU = s.upU := by rw [resetAllRecords_frame]
@[simp] theorem resetAllRecords_upD (s : State) : (resetAllRecords s).upD = s.upD := by rw [resetAllRecords_frame]
@[simp] theorem resetAllRecords_rxU (s : State) : (resetAllRecords s).rxU = s.rxU := by rw [resetAllRecords_frame]
@[simp] theorem resetAllRecords_rxD (s : State) : (resetAllRecords s).rxD = s.rxD := by rw [resetAllRecords_frame]
@[simp] theorem resetAllRecords_txD (s : State) : (resetAllRecords s).txD = s.txD := by rw [resetAllRecords_frame]
@[simp] theorem resetAllRecords_txU (s : State) : (resetAllRecords s).txU = s.txU := by rw [resetAllRecords_frame]
@[simp] theorem resetAllRecords_forward (s : State) : (resetAllRecords s).forward = s.forward := by rw [resetAllRecords_frame]
@[simp] theorem resetAllRecords_ret (s : State) : (resetAllRecords s).ret = s.ret := by rw [resetAllRecords_frame]
@[simp] theorem resetAllRecords_replies (s : State) : (resetAllRecords s).replies = s.replies := by rw [resetAllRecords_frame]
@[simp] theorem resetAllRecords_alertSlot (s : State) : (resetAllRecords s).alertSlot = s.alertSlot := by rw [resetAllRecords_frame]
@[simp] theorem resetAllRecords_slotOwed (s : State) : (resetAllRecords s).slotOwed = s.slotOwed := by rw [resetAllRecords_frame]
@[simp] theorem resetAllRecords_counters (s : State) : (resetAllRecords s).counters = s.counters := by rw [resetAllRecords_frame]
@[simp] theorem resetAllRecords_tables (s : State) : (resetAllRecords s).tables = s.tables := by rw [resetAllRecords_frame]
@[simp] theorem resetAllRecords_tracker (s : State) : (resetAllRecords s).tracker = s.tracker := by rw [resetAllRecords_frame]
@[simp] theorem resetAllRecords_repeats (s : State) : (resetAllRecords s).repeats = s.repeats := by rw [resetAllRecords_frame]
@[simp] theorem resetAllRecords_groups (s : State) : (resetAllRecords s).groups = s.groups := by rw [resetAllRecords_frame]
@[simp] theorem resetAllRecords_log (s : State) : (resetAllRecords s).log = s.log := by rw [resetAllRecords_frame]
@[simp] theorem resetAllRecords_test (s : State) : (resetAllRecords s).test = s.test := by rw [resetAllRecords_frame]
@[simp] theorem resetAllRecords_cmdFifo (s : State) : (resetAllRecords s).cmdFifo = s.cmdFifo := by rw [resetAllRecords_frame]
@[simp] theorem resetAllRecords_pending (s : State) : (resetAllRecords s).pending = s.pending := by rw [resetAllRecords_frame]

theorem tripRequest_frame (q : TripRequest) (s : State) :
    tripRequest q s = { s with faultLow := (tripRequest q s).faultLow, alertSlot := (tripRequest q s).alertSlot, groups := (tripRequest q s).groups, log := (tripRequest q s).log } := by
  unfold tripRequest
  split
  · rfl
  · split <;> rfl

@[simp] theorem tripRequest_nodeAddr (q : TripRequest) (s : State) : (tripRequest q s).nodeAddr = s.nodeAddr := by rw [tripRequest_frame]
@[simp] theorem tripRequest_tripHigh (q : TripRequest) (s : State) : (tripRequest q s).tripHigh = s.tripHigh := by rw [tripRequest_frame]
@[simp] theorem tripRequest_upU (q : TripRequest) (s : State) : (tripRequest q s).upU = s.upU := by rw [tripRequest_frame]
@[simp] theorem tripRequest_upD (q : TripRequest) (s : State) : (tripRequest q s).upD = s.upD := by rw [tripRequest_frame]
@[simp] theorem tripRequest_rxU (q : TripRequest) (s : State) : (tripRequest q s).rxU = s.rxU := by rw [tripRequest_frame]
@[simp] theorem tripRequest_rxD (q : TripRequest) (s : State) : (tripRequest q s).rxD = s.rxD := by rw [tripRequest_frame]
@[simp] theorem tripRequest_txD (q : TripRequest) (s : State) : (tripRequest q s).txD = s.txD := by rw [tripRequest_frame]
@[simp] theorem tripRequest_txU (q : TripRequest) (s : State) : (tripRequest q s).txU = s.txU := by rw [tripRequest_frame]
@[simp] theorem tripRequest_forward (q : TripRequest) (s : State) : (tripRequest q s).forward = s.forward := by rw [tripRequest_frame]
@[simp] theorem tripRequest_ret (q : TripRequest) (s : State) : (tripRequest q s).ret = s.ret := by rw [tripRequest_frame]
@[simp] theorem tripRequest_replies (q : TripRequest) (s : State) : (tripRequest q s).replies = s.replies := by rw [tripRequest_frame]
@[simp] theorem tripRequest_slotOwed (q : TripRequest) (s : State) : (tripRequest q s).slotOwed = s.slotOwed := by rw [tripRequest_frame]
@[simp] theorem tripRequest_counters (q : TripRequest) (s : State) : (tripRequest q s).counters = s.counters := by rw [tripRequest_frame]
@[simp] theorem tripRequest_tables (q : TripRequest) (s : State) : (tripRequest q s).tables = s.tables := by rw [tripRequest_frame]
@[simp] theorem tripRequest_tracker (q : TripRequest) (s : State) : (tripRequest q s).tracker = s.tracker := by rw [tripRequest_frame]
@[simp] theorem tripRequest_repeats (q : TripRequest) (s : State) : (tripRequest q s).repeats = s.repeats := by rw [tripRequest_frame]
@[simp] theorem tripRequest_channels (q : TripRequest) (s : State) : (tripRequest q s).channels = s.channels := by rw [tripRequest_frame]
@[simp] theorem tripRequest_test (q : TripRequest) (s : State) : (tripRequest q s).test = s.test := by rw [tripRequest_frame]
@[simp] theorem tripRequest_cmdFifo (q : TripRequest) (s : State) : (tripRequest q s).cmdFifo = s.cmdFifo := by rw [tripRequest_frame]
@[simp] theorem tripRequest_pending (q : TripRequest) (s : State) : (tripRequest q s).pending = s.pending := by rw [tripRequest_frame]

theorem tripGroups_frame (k : TripCause) (l : List Grp) (s : State) :
    tripGroups k l s = { s with faultLow := (tripGroups k l s).faultLow, alertSlot := (tripGroups k l s).alertSlot, groups := (tripGroups k l s).groups, log := (tripGroups k l s).log } := by
  induction l generalizing s with
  | nil => rfl
  | cons g l ih =>
    rw [tripGroups, ih, tripRequest_frame]

@[simp] theorem tripGroups_nodeAddr (k : TripCause) (l : List Grp) (s : State) : (tripGroups k l s).nodeAddr = s.nodeAddr := by rw [tripGroups_frame]
@[simp] theorem tripGroups_tripHigh (k : TripCause) (l : List Grp) (s : State) : (tripGroups k l s).tripHigh = s.tripHigh := by rw [tripGroups_frame]
@[simp] theorem tripGroups_upU (k : TripCause) (l : List Grp) (s : State) : (tripGroups k l s).upU = s.upU := by rw [tripGroups_frame]
@[simp] theorem tripGroups_upD (k : TripCause) (l : List Grp) (s : State) : (tripGroups k l s).upD = s.upD := by rw [tripGroups_frame]
@[simp] theorem tripGroups_rxU (k : TripCause) (l : List Grp) (s : State) : (tripGroups k l s).rxU = s.rxU := by rw [tripGroups_frame]
@[simp] theorem tripGroups_rxD (k : TripCause) (l : List Grp) (s : State) : (tripGroups k l s).rxD = s.rxD := by rw [tripGroups_frame]
@[simp] theorem tripGroups_txD (k : TripCause) (l : List Grp) (s : State) : (tripGroups k l s).txD = s.txD := by rw [tripGroups_frame]
@[simp] theorem tripGroups_txU (k : TripCause) (l : List Grp) (s : State) : (tripGroups k l s).txU = s.txU := by rw [tripGroups_frame]
@[simp] theorem tripGroups_forward (k : TripCause) (l : List Grp) (s : State) : (tripGroups k l s).forward = s.forward := by rw [tripGroups_frame]
@[simp] theorem tripGroups_ret (k : TripCause) (l : List Grp) (s : State) : (tripGroups k l s).ret = s.ret := by rw [tripGroups_frame]
@[simp] theorem tripGroups_replies (k : TripCause) (l : List Grp) (s : State) : (tripGroups k l s).replies = s.replies := by rw [tripGroups_frame]
@[simp] theorem tripGroups_slotOwed (k : TripCause) (l : List Grp) (s : State) : (tripGroups k l s).slotOwed = s.slotOwed := by rw [tripGroups_frame]
@[simp] theorem tripGroups_counters (k : TripCause) (l : List Grp) (s : State) : (tripGroups k l s).counters = s.counters := by rw [tripGroups_frame]
@[simp] theorem tripGroups_tables (k : TripCause) (l : List Grp) (s : State) : (tripGroups k l s).tables = s.tables := by rw [tripGroups_frame]
@[simp] theorem tripGroups_tracker (k : TripCause) (l : List Grp) (s : State) : (tripGroups k l s).tracker = s.tracker := by rw [tripGroups_frame]
@[simp] theorem tripGroups_repeats (k : TripCause) (l : List Grp) (s : State) : (tripGroups k l s).repeats = s.repeats := by rw [tripGroups_frame]
@[simp] theorem tripGroups_channels (k : TripCause) (l : List Grp) (s : State) : (tripGroups k l s).channels = s.channels := by rw [tripGroups_frame]
@[simp] theorem tripGroups_test (k : TripCause) (l : List Grp) (s : State) : (tripGroups k l s).test = s.test := by rw [tripGroups_frame]
@[simp] theorem tripGroups_cmdFifo (k : TripCause) (l : List Grp) (s : State) : (tripGroups k l s).cmdFifo = s.cmdFifo := by rw [tripGroups_frame]
@[simp] theorem tripGroups_pending (k : TripCause) (l : List Grp) (s : State) : (tripGroups k l s).pending = s.pending := by rw [tripGroups_frame]

theorem rearmGroup_frame (h : RearmHow) (g : Grp) (s : State) :
    rearmGroup h g s = { s with faultLow := (rearmGroup h g s).faultLow, alertSlot := (rearmGroup h g s).alertSlot, groups := (rearmGroup h g s).groups, log := (rearmGroup h g s).log } := rfl

@[simp] theorem rearmGroup_nodeAddr (h : RearmHow) (g : Grp) (s : State) : (rearmGroup h g s).nodeAddr = s.nodeAddr := by rw [rearmGroup_frame]
@[simp] theorem rearmGroup_tripHigh (h : RearmHow) (g : Grp) (s : State) : (rearmGroup h g s).tripHigh = s.tripHigh := by rw [rearmGroup_frame]
@[simp] theorem rearmGroup_upU (h : RearmHow) (g : Grp) (s : State) : (rearmGroup h g s).upU = s.upU := by rw [rearmGroup_frame]
@[simp] theorem rearmGroup_upD (h : RearmHow) (g : Grp) (s : State) : (rearmGroup h g s).upD = s.upD := by rw [rearmGroup_frame]
@[simp] theorem rearmGroup_rxU (h : RearmHow) (g : Grp) (s : State) : (rearmGroup h g s).rxU = s.rxU := by rw [rearmGroup_frame]
@[simp] theorem rearmGroup_rxD (h : RearmHow) (g : Grp) (s : State) : (rearmGroup h g s).rxD = s.rxD := by rw [rearmGroup_frame]
@[simp] theorem rearmGroup_txD (h : RearmHow) (g : Grp) (s : State) : (rearmGroup h g s).txD = s.txD := by rw [rearmGroup_frame]
@[simp] theorem rearmGroup_txU (h : RearmHow) (g : Grp) (s : State) : (rearmGroup h g s).txU = s.txU := by rw [rearmGroup_frame]
@[simp] theorem rearmGroup_forward (h : RearmHow) (g : Grp) (s : State) : (rearmGroup h g s).forward = s.forward := by rw [rearmGroup_frame]
@[simp] theorem rearmGroup_ret (h : RearmHow) (g : Grp) (s : State) : (rearmGroup h g s).ret = s.ret := by rw [rearmGroup_frame]
@[simp] theorem rearmGroup_replies (h : RearmHow) (g : Grp) (s : State) : (rearmGroup h g s).replies = s.replies := by rw [rearmGroup_frame]
@[simp] theorem rearmGroup_slotOwed (h : RearmHow) (g : Grp) (s : State) : (rearmGroup h g s).slotOwed = s.slotOwed := by rw [rearmGroup_frame]
@[simp] theorem rearmGroup_counters (h : RearmHow) (g : Grp) (s : State) : (rearmGroup h g s).counters = s.counters := by rw [rearmGroup_frame]
@[simp] theorem rearmGroup_tables (h : RearmHow) (g : Grp) (s : State) : (rearmGroup h g s).tables = s.tables := by rw [rearmGroup_frame]
@[simp] theorem rearmGroup_tracker (h : RearmHow) (g : Grp) (s : State) : (rearmGroup h g s).tracker = s.tracker := by rw [rearmGroup_frame]
@[simp] theorem rearmGroup_repeats (h : RearmHow) (g : Grp) (s : State) : (rearmGroup h g s).repeats = s.repeats := by rw [rearmGroup_frame]
@[simp] theorem rearmGroup_channels (h : RearmHow) (g : Grp) (s : State) : (rearmGroup h g s).channels = s.channels := by rw [rearmGroup_frame]
@[simp] theorem rearmGroup_test (h : RearmHow) (g : Grp) (s : State) : (rearmGroup h g s).test = s.test := by rw [rearmGroup_frame]
@[simp] theorem rearmGroup_cmdFifo (h : RearmHow) (g : Grp) (s : State) : (rearmGroup h g s).cmdFifo = s.cmdFifo := by rw [rearmGroup_frame]
@[simp] theorem rearmGroup_pending (h : RearmHow) (g : Grp) (s : State) : (rearmGroup h g s).pending = s.pending := by rw [rearmGroup_frame]

theorem noteValue_frame (c : Chan) (o : CheckOutcome) (s : State) :
    noteValue c o s = { s with alertSlot := (noteValue c o s).alertSlot, channels := (noteValue c o s).channels, log := (noteValue c o s).log } := by
  unfold noteValue
  split
  · rfl
  · dsimp only
    split <;> rfl

@[simp] theorem noteValue_nodeAddr (c : Chan) (o : CheckOutcome) (s : State) : (noteValue c o s).nodeAddr = s.nodeAddr := by rw [noteValue_frame]
@[simp] theorem noteValue_tripHigh (c : Chan) (o : CheckOutcome) (s : State) : (noteValue c o s).tripHigh = s.tripHigh := by rw [noteValue_frame]
@[simp] theorem noteValue_faultLow (c : Chan) (o : CheckOutcome) (s : State) : (noteValue c o s).faultLow = s.faultLow := by rw [noteValue_frame]
@[simp] theorem noteValue_upU (c : Chan) (o : CheckOutcome) (s : State) : (noteValue c o s).upU = s.upU := by rw [noteValue_frame]
@[simp] theorem noteValue_upD (c : Chan) (o : CheckOutcome) (s : State) : (noteValue c o s).upD = s.upD := by rw [noteValue_frame]
@[simp] theorem noteValue_rxU (c : Chan) (o : CheckOutcome) (s : State) : (noteValue c o s).rxU = s.rxU := by rw [noteValue_frame]
@[simp] theorem noteValue_rxD (c : Chan) (o : CheckOutcome) (s : State) : (noteValue c o s).rxD = s.rxD := by rw [noteValue_frame]
@[simp] theorem noteValue_txD (c : Chan) (o : CheckOutcome) (s : State) : (noteValue c o s).txD = s.txD := by rw [noteValue_frame]
@[simp] theorem noteValue_txU (c : Chan) (o : CheckOutcome) (s : State) : (noteValue c o s).txU = s.txU := by rw [noteValue_frame]
@[simp] theorem noteValue_forward (c : Chan) (o : CheckOutcome) (s : State) : (noteValue c o s).forward = s.forward := by rw [noteValue_frame]
@[simp] theorem noteValue_ret (c : Chan) (o : CheckOutcome) (s : State) : (noteValue c o s).ret = s.ret := by rw [noteValue_frame]
@[simp] theorem noteValue_replies (c : Chan) (o : CheckOutcome) (s : State) : (noteValue c o s).replies = s.replies := by rw [noteValue_frame]
@[simp] theorem noteValue_slotOwed (c : Chan) (o : CheckOutcome) (s : State) : (noteValue c o s).slotOwed = s.slotOwed := by rw [noteValue_frame]
@[simp] theorem noteValue_counters (c : Chan) (o : CheckOutcome) (s : State) : (noteValue c o s).counters = s.counters := by rw [noteValue_frame]
@[simp] theorem noteValue_tables (c : Chan) (o : CheckOutcome) (s : State) : (noteValue c o s).tables = s.tables := by rw [noteValue_frame]
@[simp] theorem noteValue_tracker (c : Chan) (o : CheckOutcome) (s : State) : (noteValue c o s).tracker = s.tracker := by rw [noteValue_frame]
@[simp] theorem noteValue_repeats (c : Chan) (o : CheckOutcome) (s : State) : (noteValue c o s).repeats = s.repeats := by rw [noteValue_frame]
@[simp] theorem noteValue_groups (c : Chan) (o : CheckOutcome) (s : State) : (noteValue c o s).groups = s.groups := by rw [noteValue_frame]
@[simp] theorem noteValue_test (c : Chan) (o : CheckOutcome) (s : State) : (noteValue c o s).test = s.test := by rw [noteValue_frame]
@[simp] theorem noteValue_cmdFifo (c : Chan) (o : CheckOutcome) (s : State) : (noteValue c o s).cmdFifo = s.cmdFifo := by rw [noteValue_frame]
@[simp] theorem noteValue_pending (c : Chan) (o : CheckOutcome) (s : State) : (noteValue c o s).pending = s.pending := by rw [noteValue_frame]

theorem qualifyFault_frame (c : Chan) (n : CycleNo) (k : ClassSet) (v : Option Sample) (r : ChannelRecord) (s : State) :
    qualifyFault c n k v r s = { s with faultLow := (qualifyFault c n k v r s).faultLow, alertSlot := (qualifyFault c n k v r s).alertSlot, channels := (qualifyFault c n k v r s).channels, groups := (qualifyFault c n k v r s).groups, log := (qualifyFault c n k v r s).log } := by
  unfold qualifyFault
  dsimp only
  split
  · rfl
  · split
    · rw [tripRequest_frame]; rfl
    · rfl

@[simp] theorem qualifyFault_nodeAddr (c : Chan) (n : CycleNo) (k : ClassSet) (v : Option Sample) (r : ChannelRecord) (s : State) : (qualifyFault c n k v r s).nodeAddr = s.nodeAddr := by rw [qualifyFault_frame]
@[simp] theorem qualifyFault_tripHigh (c : Chan) (n : CycleNo) (k : ClassSet) (v : Option Sample) (r : ChannelRecord) (s : State) : (qualifyFault c n k v r s).tripHigh = s.tripHigh := by rw [qualifyFault_frame]
@[simp] theorem qualifyFault_upU (c : Chan) (n : CycleNo) (k : ClassSet) (v : Option Sample) (r : ChannelRecord) (s : State) : (qualifyFault c n k v r s).upU = s.upU := by rw [qualifyFault_frame]
@[simp] theorem qualifyFault_upD (c : Chan) (n : CycleNo) (k : ClassSet) (v : Option Sample) (r : ChannelRecord) (s : State) : (qualifyFault c n k v r s).upD = s.upD := by rw [qualifyFault_frame]
@[simp] theorem qualifyFault_rxU (c : Chan) (n : CycleNo) (k : ClassSet) (v : Option Sample) (r : ChannelRecord) (s : State) : (qualifyFault c n k v r s).rxU = s.rxU := by rw [qualifyFault_frame]
@[simp] theorem qualifyFault_rxD (c : Chan) (n : CycleNo) (k : ClassSet) (v : Option Sample) (r : ChannelRecord) (s : State) : (qualifyFault c n k v r s).rxD = s.rxD := by rw [qualifyFault_frame]
@[simp] theorem qualifyFault_txD (c : Chan) (n : CycleNo) (k : ClassSet) (v : Option Sample) (r : ChannelRecord) (s : State) : (qualifyFault c n k v r s).txD = s.txD := by rw [qualifyFault_frame]
@[simp] theorem qualifyFault_txU (c : Chan) (n : CycleNo) (k : ClassSet) (v : Option Sample) (r : ChannelRecord) (s : State) : (qualifyFault c n k v r s).txU = s.txU := by rw [qualifyFault_frame]
@[simp] theorem qualifyFault_forward (c : Chan) (n : CycleNo) (k : ClassSet) (v : Option Sample) (r : ChannelRecord) (s : State) : (qualifyFault c n k v r s).forward = s.forward := by rw [qualifyFault_frame]
@[simp] theorem qualifyFault_ret (c : Chan) (n : CycleNo) (k : ClassSet) (v : Option Sample) (r : ChannelRecord) (s : State) : (qualifyFault c n k v r s).ret = s.ret := by rw [qualifyFault_frame]
@[simp] theorem qualifyFault_replies (c : Chan) (n : CycleNo) (k : ClassSet) (v : Option Sample) (r : ChannelRecord) (s : State) : (qualifyFault c n k v r s).replies = s.replies := by rw [qualifyFault_frame]
@[simp] theorem qualifyFault_slotOwed (c : Chan) (n : CycleNo) (k : ClassSet) (v : Option Sample) (r : ChannelRecord) (s : State) : (qualifyFault c n k v r s).slotOwed = s.slotOwed := by rw [qualifyFault_frame]
@[simp] theorem qualifyFault_counters (c : Chan) (n : CycleNo) (k : ClassSet) (v : Option Sample) (r : ChannelRecord) (s : State) : (qualifyFault c n k v r s).counters = s.counters := by rw [qualifyFault_frame]
@[simp] theorem qualifyFault_tables (c : Chan) (n : CycleNo) (k : ClassSet) (v : Option Sample) (r : ChannelRecord) (s : State) : (qualifyFault c n k v r s).tables = s.tables := by rw [qualifyFault_frame]
@[simp] theorem qualifyFault_tracker (c : Chan) (n : CycleNo) (k : ClassSet) (v : Option Sample) (r : ChannelRecord) (s : State) : (qualifyFault c n k v r s).tracker = s.tracker := by rw [qualifyFault_frame]
@[simp] theorem qualifyFault_repeats (c : Chan) (n : CycleNo) (k : ClassSet) (v : Option Sample) (r : ChannelRecord) (s : State) : (qualifyFault c n k v r s).repeats = s.repeats := by rw [qualifyFault_frame]
@[simp] theorem qualifyFault_test (c : Chan) (n : CycleNo) (k : ClassSet) (v : Option Sample) (r : ChannelRecord) (s : State) : (qualifyFault c n k v r s).test = s.test := by rw [qualifyFault_frame]
@[simp] theorem qualifyFault_cmdFifo (c : Chan) (n : CycleNo) (k : ClassSet) (v : Option Sample) (r : ChannelRecord) (s : State) : (qualifyFault c n k v r s).cmdFifo = s.cmdFifo := by rw [qualifyFault_frame]
@[simp] theorem qualifyFault_pending (c : Chan) (n : CycleNo) (k : ClassSet) (v : Option Sample) (r : ChannelRecord) (s : State) : (qualifyFault c n k v r s).pending = s.pending := by rw [qualifyFault_frame]

theorem evaluate_frame (c : Chan) (n : CycleNo) (k : ClassSet) (v : Option Sample) (s : State) :
    evaluate c n k v s = { s with faultLow := (evaluate c n k v s).faultLow, alertSlot := (evaluate c n k v s).alertSlot, channels := (evaluate c n k v s).channels, groups := (evaluate c n k v s).groups, log := (evaluate c n k v s).log } := by
  unfold evaluate
  dsimp only
  split
  · split
    · split <;> rfl
    · rfl
  · split
    · rw [qualifyFault_frame]
    · rfl

@[simp] theorem evaluate_nodeAddr (c : Chan) (n : CycleNo) (k : ClassSet) (v : Option Sample) (s : State) : (evaluate c n k v s).nodeAddr = s.nodeAddr := by rw [evaluate_frame]
@[simp] theorem evaluate_tripHigh (c : Chan) (n : CycleNo) (k : ClassSet) (v : Option Sample) (s : State) : (evaluate c n k v s).tripHigh = s.tripHigh := by rw [evaluate_frame]
@[simp] theorem evaluate_upU (c : Chan) (n : CycleNo) (k : ClassSet) (v : Option Sample) (s : State) : (evaluate c n k v s).upU = s.upU := by rw [evaluate_frame]
@[simp] theorem evaluate_upD (c : Chan) (n : CycleNo) (k : ClassSet) (v : Option Sample) (s : State) : (evaluate c n k v s).upD = s.upD := by rw [evaluate_frame]
@[simp] theorem evaluate_rxU (c : Chan) (n : CycleNo) (k : ClassSet) (v : Option Sample) (s : State) : (evaluate c n k v s).rxU = s.rxU := by rw [evaluate_frame]
@[simp] theorem evaluate_rxD (c : Chan) (n : CycleNo) (k : ClassSet) (v : Option Sample) (s : State) : (evaluate c n k v s).rxD = s.rxD := by rw [evaluate_frame]
@[simp] theorem evaluate_txD (c : Chan) (n : CycleNo) (k : ClassSet) (v : Option Sample) (s : State) : (evaluate c n k v s).txD = s.txD := by rw [evaluate_frame]
@[simp] theorem evaluate_txU (c : Chan) (n : CycleNo) (k : ClassSet) (v : Option Sample) (s : State) : (evaluate c n k v s).txU = s.txU := by rw [evaluate_frame]
@[simp] theorem evaluate_forward (c : Chan) (n : CycleNo) (k : ClassSet) (v : Option Sample) (s : State) : (evaluate c n k v s).forward = s.forward := by rw [evaluate_frame]
@[simp] theorem evaluate_ret (c : Chan) (n : CycleNo) (k : ClassSet) (v : Option Sample) (s : State) : (evaluate c n k v s).ret = s.ret := by rw [evaluate_frame]
@[simp] theorem evaluate_replies (c : Chan) (n : CycleNo) (k : ClassSet) (v : Option Sample) (s : State) : (evaluate c n k v s).replies = s.replies := by rw [evaluate_frame]
@[simp] theorem evaluate_slotOwed (c : Chan) (n : CycleNo) (k : ClassSet) (v : Option Sample) (s : State) : (evaluate c n k v s).slotOwed = s.slotOwed := by rw [evaluate_frame]
@[simp] theorem evaluate_counters (c : Chan) (n : CycleNo) (k : ClassSet) (v : Option Sample) (s : State) : (evaluate c n k v s).counters = s.counters := by rw [evaluate_frame]
@[simp] theorem evaluate_tables (c : Chan) (n : CycleNo) (k : ClassSet) (v : Option Sample) (s : State) : (evaluate c n k v s).tables = s.tables := by rw [evaluate_frame]
@[simp] theorem evaluate_tracker (c : Chan) (n : CycleNo) (k : ClassSet) (v : Option Sample) (s : State) : (evaluate c n k v s).tracker = s.tracker := by rw [evaluate_frame]
@[simp] theorem evaluate_repeats (c : Chan) (n : CycleNo) (k : ClassSet) (v : Option Sample) (s : State) : (evaluate c n k v s).repeats = s.repeats := by rw [evaluate_frame]
@[simp] theorem evaluate_test (c : Chan) (n : CycleNo) (k : ClassSet) (v : Option Sample) (s : State) : (evaluate c n k v s).test = s.test := by rw [evaluate_frame]
@[simp] theorem evaluate_cmdFifo (c : Chan) (n : CycleNo) (k : ClassSet) (v : Option Sample) (s : State) : (evaluate c n k v s).cmdFifo = s.cmdFifo := by rw [evaluate_frame]
@[simp] theorem evaluate_pending (c : Chan) (n : CycleNo) (k : ClassSet) (v : Option Sample) (s : State) : (evaluate c n k v s).pending = s.pending := by rw [evaluate_frame]

theorem staleOver_frame (n : CycleNo) (m : Vector Bool 96) (l : List Chan) (s : State) :
    staleOver n m l s = { s with faultLow := (staleOver n m l s).faultLow, alertSlot := (staleOver n m l s).alertSlot, channels := (staleOver n m l s).channels, groups := (staleOver n m l s).groups, log := (staleOver n m l s).log } := by
  induction l generalizing s with
  | nil => rfl
  | cons c l ih =>
    rw [staleOver, ih]
    split
    · rw [evaluate_frame]
    · rfl

@[simp] theorem staleOver_nodeAddr (n : CycleNo) (m : Vector Bool 96) (l : List Chan) (s : State) : (staleOver n m l s).nodeAddr = s.nodeAddr := by rw [staleOver_frame]
@[simp] theorem staleOver_tripHigh (n : CycleNo) (m : Vector Bool 96) (l : List Chan) (s : State) : (staleOver n m l s).tripHigh = s.tripHigh := by rw [staleOver_frame]
@[simp] theorem staleOver_upU (n : CycleNo) (m : Vector Bool 96) (l : List Chan) (s : State) : (staleOver n m l s).upU = s.upU := by rw [staleOver_frame]
@[simp] theorem staleOver_upD (n : CycleNo) (m : Vector Bool 96) (l : List Chan) (s : State) : (staleOver n m l s).upD = s.upD := by rw [staleOver_frame]
@[simp] theorem staleOver_rxU (n : CycleNo) (m : Vector Bool 96) (l : List Chan) (s : State) : (staleOver n m l s).rxU = s.rxU := by rw [staleOver_frame]
@[simp] theorem staleOver_rxD (n : CycleNo) (m : Vector Bool 96) (l : List Chan) (s : State) : (staleOver n m l s).rxD = s.rxD := by rw [staleOver_frame]
@[simp] theorem staleOver_txD (n : CycleNo) (m : Vector Bool 96) (l : List Chan) (s : State) : (staleOver n m l s).txD = s.txD := by rw [staleOver_frame]
@[simp] theorem staleOver_txU (n : CycleNo) (m : Vector Bool 96) (l : List Chan) (s : State) : (staleOver n m l s).txU = s.txU := by rw [staleOver_frame]
@[simp] theorem staleOver_forward (n : CycleNo) (m : Vector Bool 96) (l : List Chan) (s : State) : (staleOver n m l s).forward = s.forward := by rw [staleOver_frame]
@[simp] theorem staleOver_ret (n : CycleNo) (m : Vector Bool 96) (l : List Chan) (s : State) : (staleOver n m l s).ret = s.ret := by rw [staleOver_frame]
@[simp] theorem staleOver_replies (n : CycleNo) (m : Vector Bool 96) (l : List Chan) (s : State) : (staleOver n m l s).replies = s.replies := by rw [staleOver_frame]
@[simp] theorem staleOver_slotOwed (n : CycleNo) (m : Vector Bool 96) (l : List Chan) (s : State) : (staleOver n m l s).slotOwed = s.slotOwed := by rw [staleOver_frame]
@[simp] theorem staleOver_counters (n : CycleNo) (m : Vector Bool 96) (l : List Chan) (s : State) : (staleOver n m l s).counters = s.counters := by rw [staleOver_frame]
@[simp] theorem staleOver_tables (n : CycleNo) (m : Vector Bool 96) (l : List Chan) (s : State) : (staleOver n m l s).tables = s.tables := by rw [staleOver_frame]
@[simp] theorem staleOver_tracker (n : CycleNo) (m : Vector Bool 96) (l : List Chan) (s : State) : (staleOver n m l s).tracker = s.tracker := by rw [staleOver_frame]
@[simp] theorem staleOver_repeats (n : CycleNo) (m : Vector Bool 96) (l : List Chan) (s : State) : (staleOver n m l s).repeats = s.repeats := by rw [staleOver_frame]
@[simp] theorem staleOver_test (n : CycleNo) (m : Vector Bool 96) (l : List Chan) (s : State) : (staleOver n m l s).test = s.test := by rw [staleOver_frame]
@[simp] theorem staleOver_cmdFifo (n : CycleNo) (m : Vector Bool 96) (l : List Chan) (s : State) : (staleOver n m l s).cmdFifo = s.cmdFifo := by rw [staleOver_frame]
@[simp] theorem staleOver_pending (n : CycleNo) (m : Vector Bool 96) (l : List Chan) (s : State) : (staleOver n m l s).pending = s.pending := by rw [staleOver_frame]

theorem staleTrigger_frame (n : CycleNo) (m : Vector Bool 96) (s : State) :
    staleTrigger n m s = { s with faultLow := (staleTrigger n m s).faultLow, alertSlot := (staleTrigger n m s).alertSlot, channels := (staleTrigger n m s).channels, groups := (staleTrigger n m s).groups, log := (staleTrigger n m s).log } := staleOver_frame n m allChannels s

@[simp] theorem staleTrigger_nodeAddr (n : CycleNo) (m : Vector Bool 96) (s : State) : (staleTrigger n m s).nodeAddr = s.nodeAddr := by rw [staleTrigger_frame]
@[simp] theorem staleTrigger_tripHigh (n : CycleNo) (m : Vector Bool 96) (s : State) : (staleTrigger n m s).tripHigh = s.tripHigh := by rw [staleTrigger_frame]
@[simp] theorem staleTrigger_upU (n : CycleNo) (m : Vector Bool 96) (s : State) : (staleTrigger n m s).upU = s.upU := by rw [staleTrigger_frame]
@[simp] theorem staleTrigger_upD (n : CycleNo) (m : Vector Bool 96) (s : State) : (staleTrigger n m s).upD = s.upD := by rw [staleTrigger_frame]
@[simp] theorem staleTrigger_rxU (n : CycleNo) (m : Vector Bool 96) (s : State) : (staleTrigger n m s).rxU = s.rxU := by rw [staleTrigger_frame]
@[simp] theorem staleTrigger_rxD (n : CycleNo) (m : Vector Bool 96) (s : State) : (staleTrigger n m s).rxD = s.rxD := by rw [staleTrigger_frame]
@[simp] theorem staleTrigger_txD (n : CycleNo) (m : Vector Bool 96) (s : State) : (staleTrigger n m s).txD = s.txD := by rw [staleTrigger_frame]
@[simp] theorem staleTrigger_txU (n : CycleNo) (m : Vector Bool 96) (s : State) : (staleTrigger n m s).txU = s.txU := by rw [staleTrigger_frame]
@[simp] theorem staleTrigger_forward (n : CycleNo) (m : Vector Bool 96) (s : State) : (staleTrigger n m s).forward = s.forward := by rw [staleTrigger_frame]
@[simp] theorem staleTrigger_ret (n : CycleNo) (m : Vector Bool 96) (s : State) : (staleTrigger n m s).ret = s.ret := by rw [staleTrigger_frame]
@[simp] theorem staleTrigger_replies (n : CycleNo) (m : Vector Bool 96) (s : State) : (staleTrigger n m s).replies = s.replies := by rw [staleTrigger_frame]
@[simp] theorem staleTrigger_slotOwed (n : CycleNo) (m : Vector Bool 96) (s : State) : (staleTrigger n m s).slotOwed = s.slotOwed := by rw [staleTrigger_frame]
@[simp] theorem staleTrigger_counters (n : CycleNo) (m : Vector Bool 96) (s : State) : (staleTrigger n m s).counters = s.counters := by rw [staleTrigger_frame]
@[simp] theorem staleTrigger_tables (n : CycleNo) (m : Vector Bool 96) (s : State) : (staleTrigger n m s).tables = s.tables := by rw [staleTrigger_frame]
@[simp] theorem staleTrigger_tracker (n : CycleNo) (m : Vector Bool 96) (s : State) : (staleTrigger n m s).tracker = s.tracker := by rw [staleTrigger_frame]
@[simp] theorem staleTrigger_repeats (n : CycleNo) (m : Vector Bool 96) (s : State) : (staleTrigger n m s).repeats = s.repeats := by rw [staleTrigger_frame]
@[simp] theorem staleTrigger_test (n : CycleNo) (m : Vector Bool 96) (s : State) : (staleTrigger n m s).test = s.test := by rw [staleTrigger_frame]
@[simp] theorem staleTrigger_cmdFifo (n : CycleNo) (m : Vector Bool 96) (s : State) : (staleTrigger n m s).cmdFifo = s.cmdFifo := by rw [staleTrigger_frame]
@[simp] theorem staleTrigger_pending (n : CycleNo) (m : Vector Bool 96) (s : State) : (staleTrigger n m s).pending = s.pending := by rw [staleTrigger_frame]

theorem staleRun_frame (k : Nat) (n : CycleNo) (s : State) :
    staleRun k n s = { s with faultLow := (staleRun k n s).faultLow, alertSlot := (staleRun k n s).alertSlot, channels := (staleRun k n s).channels, groups := (staleRun k n s).groups, log := (staleRun k n s).log } := by
  induction k generalizing n s with
  | zero => rfl
  | succ k ih => rw [staleRun, ih, staleTrigger_frame]

@[simp] theorem staleRun_nodeAddr (k : Nat) (n : CycleNo) (s : State) : (staleRun k n s).nodeAddr = s.nodeAddr := by rw [staleRun_frame]
@[simp] theorem staleRun_tripHigh (k : Nat) (n : CycleNo) (s : State) : (staleRun k n s).tripHigh = s.tripHigh := by rw [staleRun_frame]
@[simp] theorem staleRun_upU (k : Nat) (n : CycleNo) (s : State) : (staleRun k n s).upU = s.upU := by rw [staleRun_frame]
@[simp] theorem staleRun_upD (k : Nat) (n : CycleNo) (s : State) : (staleRun k n s).upD = s.upD := by rw [staleRun_frame]
@[simp] theorem staleRun_rxU (k : Nat) (n : CycleNo) (s : State) : (staleRun k n s).rxU = s.rxU := by rw [staleRun_frame]
@[simp] theorem staleRun_rxD (k : Nat) (n : CycleNo) (s : State) : (staleRun k n s).rxD = s.rxD := by rw [staleRun_frame]
@[simp] theorem staleRun_txD (k : Nat) (n : CycleNo) (s : State) : (staleRun k n s).txD = s.txD := by rw [staleRun_frame]
@[simp] theorem staleRun_txU (k : Nat) (n : CycleNo) (s : State) : (staleRun k n s).txU = s.txU := by rw [staleRun_frame]
@[simp] theorem staleRun_forward (k : Nat) (n : CycleNo) (s : State) : (staleRun k n s).forward = s.forward := by rw [staleRun_frame]
@[simp] theorem staleRun_ret (k : Nat) (n : CycleNo) (s : State) : (staleRun k n s).ret = s.ret := by rw [staleRun_frame]
@[simp] theorem staleRun_replies (k : Nat) (n : CycleNo) (s : State) : (staleRun k n s).replies = s.replies := by rw [staleRun_frame]
@[simp] theorem staleRun_slotOwed (k : Nat) (n : CycleNo) (s : State) : (staleRun k n s).slotOwed = s.slotOwed := by rw [staleRun_frame]
@[simp] theorem staleRun_counters (k : Nat) (n : CycleNo) (s : State) : (staleRun k n s).counters = s.counters := by rw [staleRun_frame]
@[simp] theorem staleRun_tables (k : Nat) (n : CycleNo) (s : State) : (staleRun k n s).tables = s.tables := by rw [staleRun_frame]
@[simp] theorem staleRun_tracker (k : Nat) (n : CycleNo) (s : State) : (staleRun k n s).tracker = s.tracker := by rw [staleRun_frame]
@[simp] theorem staleRun_repeats (k : Nat) (n : CycleNo) (s : State) : (staleRun k n s).repeats = s.repeats := by rw [staleRun_frame]
@[simp] theorem staleRun_test (k : Nat) (n : CycleNo) (s : State) : (staleRun k n s).test = s.test := by rw [staleRun_frame]
@[simp] theorem staleRun_cmdFifo (k : Nat) (n : CycleNo) (s : State) : (staleRun k n s).cmdFifo = s.cmdFifo := by rw [staleRun_frame]
@[simp] theorem staleRun_pending (k : Nat) (n : CycleNo) (s : State) : (staleRun k n s).pending = s.pending := by rw [staleRun_frame]

theorem updateLastGood_frame (c : Chan) (o : CheckOutcome) (s : State) :
    updateLastGood c o s = { s with channels := (updateLastGood c o s).channels } := by
  unfold updateLastGood
  dsimp only
  split
  · rfl
  · split <;> rfl

@[simp] theorem updateLastGood_nodeAddr (c : Chan) (o : CheckOutcome) (s : State) : (updateLastGood c o s).nodeAddr = s.nodeAddr := by rw [updateLastGood_frame]
@[simp] theorem updateLastGood_tripHigh (c : Chan) (o : CheckOutcome) (s : State) : (updateLastGood c o s).tripHigh = s.tripHigh := by rw [updateLastGood_frame]
@[simp] theorem updateLastGood_faultLow (c : Chan) (o : CheckOutcome) (s : State) : (updateLastGood c o s).faultLow = s.faultLow := by rw [updateLastGood_frame]
@[simp] theorem updateLastGood_upU (c : Chan) (o : CheckOutcome) (s : State) : (updateLastGood c o s).upU = s.upU := by rw [updateLastGood_frame]
@[simp] theorem updateLastGood_upD (c : Chan) (o : CheckOutcome) (s : State) : (updateLastGood c o s).upD = s.upD := by rw [updateLastGood_frame]
@[simp] theorem updateLastGood_rxU (c : Chan) (o : CheckOutcome) (s : State) : (updateLastGood c o s).rxU = s.rxU := by rw [updateLastGood_frame]
@[simp] theorem updateLastGood_rxD (c : Chan) (o : CheckOutcome) (s : State) : (updateLastGood c o s).rxD = s.rxD := by rw [updateLastGood_frame]
@[simp] theorem updateLastGood_txD (c : Chan) (o : CheckOutcome) (s : State) : (updateLastGood c o s).txD = s.txD := by rw [updateLastGood_frame]
@[simp] theorem updateLastGood_txU (c : Chan) (o : CheckOutcome) (s : State) : (updateLastGood c o s).txU = s.txU := by rw [updateLastGood_frame]
@[simp] theorem updateLastGood_forward (c : Chan) (o : CheckOutcome) (s : State) : (updateLastGood c o s).forward = s.forward := by rw [updateLastGood_frame]
@[simp] theorem updateLastGood_ret (c : Chan) (o : CheckOutcome) (s : State) : (updateLastGood c o s).ret = s.ret := by rw [updateLastGood_frame]
@[simp] theorem updateLastGood_replies (c : Chan) (o : CheckOutcome) (s : State) : (updateLastGood c o s).replies = s.replies := by rw [updateLastGood_frame]
@[simp] theorem updateLastGood_alertSlot (c : Chan) (o : CheckOutcome) (s : State) : (updateLastGood c o s).alertSlot = s.alertSlot := by rw [updateLastGood_frame]
@[simp] theorem updateLastGood_slotOwed (c : Chan) (o : CheckOutcome) (s : State) : (updateLastGood c o s).slotOwed = s.slotOwed := by rw [updateLastGood_frame]
@[simp] theorem updateLastGood_counters (c : Chan) (o : CheckOutcome) (s : State) : (updateLastGood c o s).counters = s.counters := by rw [updateLastGood_frame]
@[simp] theorem updateLastGood_tables (c : Chan) (o : CheckOutcome) (s : State) : (updateLastGood c o s).tables = s.tables := by rw [updateLastGood_frame]
@[simp] theorem updateLastGood_tracker (c : Chan) (o : CheckOutcome) (s : State) : (updateLastGood c o s).tracker = s.tracker := by rw [updateLastGood_frame]
@[simp] theorem updateLastGood_repeats (c : Chan) (o : CheckOutcome) (s : State) : (updateLastGood c o s).repeats = s.repeats := by rw [updateLastGood_frame]
@[simp] theorem updateLastGood_groups (c : Chan) (o : CheckOutcome) (s : State) : (updateLastGood c o s).groups = s.groups := by rw [updateLastGood_frame]
@[simp] theorem updateLastGood_log (c : Chan) (o : CheckOutcome) (s : State) : (updateLastGood c o s).log = s.log := by rw [updateLastGood_frame]
@[simp] theorem updateLastGood_test (c : Chan) (o : CheckOutcome) (s : State) : (updateLastGood c o s).test = s.test := by rw [updateLastGood_frame]
@[simp] theorem updateLastGood_cmdFifo (c : Chan) (o : CheckOutcome) (s : State) : (updateLastGood c o s).cmdFifo = s.cmdFifo := by rw [updateLastGood_frame]
@[simp] theorem updateLastGood_pending (c : Chan) (o : CheckOutcome) (s : State) : (updateLastGood c o s).pending = s.pending := by rw [updateLastGood_frame]

theorem noteDuplicate_frame (c : Chan) (s : State) :
    noteDuplicate c s = { s with alertSlot := (noteDuplicate c s).alertSlot, repeats := (noteDuplicate c s).repeats, log := (noteDuplicate c s).log } := by
  unfold noteDuplicate
  split <;> rfl

@[simp] theorem noteDuplicate_nodeAddr (c : Chan) (s : State) : (noteDuplicate c s).nodeAddr = s.nodeAddr := by rw [noteDuplicate_frame]
@[simp] theorem noteDuplicate_tripHigh (c : Chan) (s : State) : (noteDuplicate c s).tripHigh = s.tripHigh := by rw [noteDuplicate_frame]
@[simp] theorem noteDuplicate_faultLow (c : Chan) (s : State) : (noteDuplicate c s).faultLow = s.faultLow := by rw [noteDuplicate_frame]
@[simp] theorem noteDuplicate_upU (c : Chan) (s : State) : (noteDuplicate c s).upU = s.upU := by rw [noteDuplicate_frame]
@[simp] theorem noteDuplicate_upD (c : Chan) (s : State) : (noteDuplicate c s).upD = s.upD := by rw [noteDuplicate_frame]
@[simp] theorem noteDuplicate_rxU (c : Chan) (s : State) : (noteDuplicate c s).rxU = s.rxU := by rw [noteDuplicate_frame]
@[simp] theorem noteDuplicate_rxD (c : Chan) (s : State) : (noteDuplicate c s).rxD = s.rxD := by rw [noteDuplicate_frame]
@[simp] theorem noteDuplicate_txD (c : Chan) (s : State) : (noteDuplicate c s).txD = s.txD := by rw [noteDuplicate_frame]
@[simp] theorem noteDuplicate_txU (c : Chan) (s : State) : (noteDuplicate c s).txU = s.txU := by rw [noteDuplicate_frame]
@[simp] theorem noteDuplicate_forward (c : Chan) (s : State) : (noteDuplicate c s).forward = s.forward := by rw [noteDuplicate_frame]
@[simp] theorem noteDuplicate_ret (c : Chan) (s : State) : (noteDuplicate c s).ret = s.ret := by rw [noteDuplicate_frame]
@[simp] theorem noteDuplicate_replies (c : Chan) (s : State) : (noteDuplicate c s).replies = s.replies := by rw [noteDuplicate_frame]
@[simp] theorem noteDuplicate_slotOwed (c : Chan) (s : State) : (noteDuplicate c s).slotOwed = s.slotOwed := by rw [noteDuplicate_frame]
@[simp] theorem noteDuplicate_counters (c : Chan) (s : State) : (noteDuplicate c s).counters = s.counters := by rw [noteDuplicate_frame]
@[simp] theorem noteDuplicate_tables (c : Chan) (s : State) : (noteDuplicate c s).tables = s.tables := by rw [noteDuplicate_frame]
@[simp] theorem noteDuplicate_tracker (c : Chan) (s : State) : (noteDuplicate c s).tracker = s.tracker := by rw [noteDuplicate_frame]
@[simp] theorem noteDuplicate_channels (c : Chan) (s : State) : (noteDuplicate c s).channels = s.channels := by rw [noteDuplicate_frame]
@[simp] theorem noteDuplicate_groups (c : Chan) (s : State) : (noteDuplicate c s).groups = s.groups := by rw [noteDuplicate_frame]
@[simp] theorem noteDuplicate_test (c : Chan) (s : State) : (noteDuplicate c s).test = s.test := by rw [noteDuplicate_frame]
@[simp] theorem noteDuplicate_cmdFifo (c : Chan) (s : State) : (noteDuplicate c s).cmdFifo = s.cmdFifo := by rw [noteDuplicate_frame]
@[simp] theorem noteDuplicate_pending (c : Chan) (s : State) : (noteDuplicate c s).pending = s.pending := by rw [noteDuplicate_frame]

theorem endTest_frame (t : PendingTest) (f : TestFinding) (n : Option CycleNo) (s : State) :
    endTest t f n s = { s with test := (endTest t f n s).test } := rfl

@[simp] theorem endTest_nodeAddr (t : PendingTest) (f : TestFinding) (n : Option CycleNo) (s : State) : (endTest t f n s).nodeAddr = s.nodeAddr := by rw [endTest_frame]
@[simp] theorem endTest_tripHigh (t : PendingTest) (f : TestFinding) (n : Option CycleNo) (s : State) : (endTest t f n s).tripHigh = s.tripHigh := by rw [endTest_frame]
@[simp] theorem endTest_faultLow (t : PendingTest) (f : TestFinding) (n : Option CycleNo) (s : State) : (endTest t f n s).faultLow = s.faultLow := by rw [endTest_frame]
@[simp] theorem endTest_upU (t : PendingTest) (f : TestFinding) (n : Option CycleNo) (s : State) : (endTest t f n s).upU = s.upU := by rw [endTest_frame]
@[simp] theorem endTest_upD (t : PendingTest) (f : TestFinding) (n : Option CycleNo) (s : State) : (endTest t f n s).upD = s.upD := by rw [endTest_frame]
@[simp] theorem endTest_rxU (t : PendingTest) (f : TestFinding) (n : Option CycleNo) (s : State) : (endTest t f n s).rxU = s.rxU := by rw [endTest_frame]
@[simp] theorem endTest_rxD (t : PendingTest) (f : TestFinding) (n : Option CycleNo) (s : State) : (endTest t f n s).rxD = s.rxD := by rw [endTest_frame]
@[simp] theorem endTest_txD (t : PendingTest) (f : TestFinding) (n : Option CycleNo) (s : State) : (endTest t f n s).txD = s.txD := by rw [endTest_frame]
@[simp] theorem endTest_txU (t : PendingTest) (f : TestFinding) (n : Option CycleNo) (s : State) : (endTest t f n s).txU = s.txU := by rw [endTest_frame]
@[simp] theorem endTest_forward (t : PendingTest) (f : TestFinding) (n : Option CycleNo) (s : State) : (endTest t f n s).forward = s.forward := by rw [endTest_frame]
@[simp] theorem endTest_ret (t : PendingTest) (f : TestFinding) (n : Option CycleNo) (s : State) : (endTest t f n s).ret = s.ret := by rw [endTest_frame]
@[simp] theorem endTest_replies (t : PendingTest) (f : TestFinding) (n : Option CycleNo) (s : State) : (endTest t f n s).replies = s.replies := by rw [endTest_frame]
@[simp] theorem endTest_alertSlot (t : PendingTest) (f : TestFinding) (n : Option CycleNo) (s : State) : (endTest t f n s).alertSlot = s.alertSlot := by rw [endTest_frame]
@[simp] theorem endTest_slotOwed (t : PendingTest) (f : TestFinding) (n : Option CycleNo) (s : State) : (endTest t f n s).slotOwed = s.slotOwed := by rw [endTest_frame]
@[simp] theorem endTest_counters (t : PendingTest) (f : TestFinding) (n : Option CycleNo) (s : State) : (endTest t f n s).counters = s.counters := by rw [endTest_frame]
@[simp] theorem endTest_tables (t : PendingTest) (f : TestFinding) (n : Option CycleNo) (s : State) : (endTest t f n s).tables = s.tables := by rw [endTest_frame]
@[simp] theorem endTest_tracker (t : PendingTest) (f : TestFinding) (n : Option CycleNo) (s : State) : (endTest t f n s).tracker = s.tracker := by rw [endTest_frame]
@[simp] theorem endTest_repeats (t : PendingTest) (f : TestFinding) (n : Option CycleNo) (s : State) : (endTest t f n s).repeats = s.repeats := by rw [endTest_frame]
@[simp] theorem endTest_channels (t : PendingTest) (f : TestFinding) (n : Option CycleNo) (s : State) : (endTest t f n s).channels = s.channels := by rw [endTest_frame]
@[simp] theorem endTest_groups (t : PendingTest) (f : TestFinding) (n : Option CycleNo) (s : State) : (endTest t f n s).groups = s.groups := by rw [endTest_frame]
@[simp] theorem endTest_log (t : PendingTest) (f : TestFinding) (n : Option CycleNo) (s : State) : (endTest t f n s).log = s.log := by rw [endTest_frame]
@[simp] theorem endTest_cmdFifo (t : PendingTest) (f : TestFinding) (n : Option CycleNo) (s : State) : (endTest t f n s).cmdFifo = s.cmdFifo := by rw [endTest_frame]
@[simp] theorem endTest_pending (t : PendingTest) (f : TestFinding) (n : Option CycleNo) (s : State) : (endTest t f n s).pending = s.pending := by rw [endTest_frame]

theorem runPendingTest_frame (n : CycleNo) (s : State) :
    runPendingTest n s = { s with test := (runPendingTest n s).test } := by
  unfold runPendingTest
  split <;> rfl

@[simp] theorem runPendingTest_nodeAddr (n : CycleNo) (s : State) : (runPendingTest n s).nodeAddr = s.nodeAddr := by rw [runPendingTest_frame]
@[simp] theorem runPendingTest_tripHigh (n : CycleNo) (s : State) : (runPendingTest n s).tripHigh = s.tripHigh := by rw [runPendingTest_frame]
@[simp] theorem runPendingTest_faultLow (n : CycleNo) (s : State) : (runPendingTest n s).faultLow = s.faultLow := by rw [runPendingTest_frame]
@[simp] theorem runPendingTest_upU (n : CycleNo) (s : State) : (runPendingTest n s).upU = s.upU := by rw [runPendingTest_frame]
@[simp] theorem runPendingTest_upD (n : CycleNo) (s : State) : (runPendingTest n s).upD = s.upD := by rw [runPendingTest_frame]
@[simp] theorem runPendingTest_rxU (n : CycleNo) (s : State) : (runPendingTest n s).rxU = s.rxU := by rw [runPendingTest_frame]
@[simp] theorem runPendingTest_rxD (n : CycleNo) (s : State) : (runPendingTest n s).rxD = s.rxD := by rw [runPendingTest_frame]
@[simp] theorem runPendingTest_txD (n : CycleNo) (s : State) : (runPendingTest n s).txD = s.txD := by rw [runPendingTest_frame]
@[simp] theorem runPendingTest_txU (n : CycleNo) (s : State) : (runPendingTest n s).txU = s.txU := by rw [runPendingTest_frame]
@[simp] theorem runPendingTest_forward (n : CycleNo) (s : State) : (runPendingTest n s).forward = s.forward := by rw [runPendingTest_frame]
@[simp] theorem runPendingTest_ret (n : CycleNo) (s : State) : (runPendingTest n s).ret = s.ret := by rw [runPendingTest_frame]
@[simp] theorem runPendingTest_replies (n : CycleNo) (s : State) : (runPendingTest n s).replies = s.replies := by rw [runPendingTest_frame]
@[simp] theorem runPendingTest_alertSlot (n : CycleNo) (s : State) : (runPendingTest n s).alertSlot = s.alertSlot := by rw [runPendingTest_frame]
@[simp] theorem runPendingTest_slotOwed (n : CycleNo) (s : State) : (runPendingTest n s).slotOwed = s.slotOwed := by rw [runPendingTest_frame]
@[simp] theorem runPendingTest_counters (n : CycleNo) (s : State) : (runPendingTest n s).counters = s.counters := by rw [runPendingTest_frame]
@[simp] theorem runPendingTest_tables (n : CycleNo) (s : State) : (runPendingTest n s).tables = s.tables := by rw [runPendingTest_frame]
@[simp] theorem runPendingTest_tracker (n : CycleNo) (s : State) : (runPendingTest n s).tracker = s.tracker := by rw [runPendingTest_frame]
@[simp] theorem runPendingTest_repeats (n : CycleNo) (s : State) : (runPendingTest n s).repeats = s.repeats := by rw [runPendingTest_frame]
@[simp] theorem runPendingTest_channels (n : CycleNo) (s : State) : (runPendingTest n s).channels = s.channels := by rw [runPendingTest_frame]
@[simp] theorem runPendingTest_groups (n : CycleNo) (s : State) : (runPendingTest n s).groups = s.groups := by rw [runPendingTest_frame]
@[simp] theorem runPendingTest_log (n : CycleNo) (s : State) : (runPendingTest n s).log = s.log := by rw [runPendingTest_frame]
@[simp] theorem runPendingTest_cmdFifo (n : CycleNo) (s : State) : (runPendingTest n s).cmdFifo = s.cmdFifo := by rw [runPendingTest_frame]
@[simp] theorem runPendingTest_pending (n : CycleNo) (s : State) : (runPendingTest n s).pending = s.pending := by rw [runPendingTest_frame]

theorem abortPendingTest_frame (n : CycleNo) (s : State) :
    abortPendingTest n s = { s with test := (abortPendingTest n s).test } := by
  unfold abortPendingTest
  split <;> rfl

@[simp] theorem abortPendingTest_nodeAddr (n : CycleNo) (s : State) : (abortPendingTest n s).nodeAddr = s.nodeAddr := by rw [abortPendingTest_frame]
@[simp] theorem abortPendingTest_tripHigh (n : CycleNo) (s : State) : (abortPendingTest n s).tripHigh = s.tripHigh := by rw [abortPendingTest_frame]
@[simp] theorem abortPendingTest_faultLow (n : CycleNo) (s : State) : (abortPendingTest n s).faultLow = s.faultLow := by rw [abortPendingTest_frame]
@[simp] theorem abortPendingTest_upU (n : CycleNo) (s : State) : (abortPendingTest n s).upU = s.upU := by rw [abortPendingTest_frame]
@[simp] theorem abortPendingTest_upD (n : CycleNo) (s : State) : (abortPendingTest n s).upD = s.upD := by rw [abortPendingTest_frame]
@[simp] theorem abortPendingTest_rxU (n : CycleNo) (s : State) : (abortPendingTest n s).rxU = s.rxU := by rw [abortPendingTest_frame]
@[simp] theorem abortPendingTest_rxD (n : CycleNo) (s : State) : (abortPendingTest n s).rxD = s.rxD := by rw [abortPendingTest_frame]
@[simp] theorem abortPendingTest_txD (n : CycleNo) (s : State) : (abortPendingTest n s).txD = s.txD := by rw [abortPendingTest_frame]
@[simp] theorem abortPendingTest_txU (n : CycleNo) (s : State) : (abortPendingTest n s).txU = s.txU := by rw [abortPendingTest_frame]
@[simp] theorem abortPendingTest_forward (n : CycleNo) (s : State) : (abortPendingTest n s).forward = s.forward := by rw [abortPendingTest_frame]
@[simp] theorem abortPendingTest_ret (n : CycleNo) (s : State) : (abortPendingTest n s).ret = s.ret := by rw [abortPendingTest_frame]
@[simp] theorem abortPendingTest_replies (n : CycleNo) (s : State) : (abortPendingTest n s).replies = s.replies := by rw [abortPendingTest_frame]
@[simp] theorem abortPendingTest_alertSlot (n : CycleNo) (s : State) : (abortPendingTest n s).alertSlot = s.alertSlot := by rw [abortPendingTest_frame]
@[simp] theorem abortPendingTest_slotOwed (n : CycleNo) (s : State) : (abortPendingTest n s).slotOwed = s.slotOwed := by rw [abortPendingTest_frame]
@[simp] theorem abortPendingTest_counters (n : CycleNo) (s : State) : (abortPendingTest n s).counters = s.counters := by rw [abortPendingTest_frame]
@[simp] theorem abortPendingTest_tables (n : CycleNo) (s : State) : (abortPendingTest n s).tables = s.tables := by rw [abortPendingTest_frame]
@[simp] theorem abortPendingTest_tracker (n : CycleNo) (s : State) : (abortPendingTest n s).tracker = s.tracker := by rw [abortPendingTest_frame]
@[simp] theorem abortPendingTest_repeats (n : CycleNo) (s : State) : (abortPendingTest n s).repeats = s.repeats := by rw [abortPendingTest_frame]
@[simp] theorem abortPendingTest_channels (n : CycleNo) (s : State) : (abortPendingTest n s).channels = s.channels := by rw [abortPendingTest_frame]
@[simp] theorem abortPendingTest_groups (n : CycleNo) (s : State) : (abortPendingTest n s).groups = s.groups := by rw [abortPendingTest_frame]
@[simp] theorem abortPendingTest_log (n : CycleNo) (s : State) : (abortPendingTest n s).log = s.log := by rw [abortPendingTest_frame]
@[simp] theorem abortPendingTest_cmdFifo (n : CycleNo) (s : State) : (abortPendingTest n s).cmdFifo = s.cmdFifo := by rw [abortPendingTest_frame]
@[simp] theorem abortPendingTest_pending (n : CycleNo) (s : State) : (abortPendingTest n s).pending = s.pending := by rw [abortPendingTest_frame]

theorem swapAtOpen_frame (n : CycleNo) (s : State) :
    swapAtOpen n s = { s with alertSlot := (swapAtOpen n s).alertSlot, tables := (swapAtOpen n s).tables, channels := (swapAtOpen n s).channels, log := (swapAtOpen n s).log } := by
  unfold swapAtOpen
  split
  · rfl
  · split
    · unfold swap
      dsimp only
      split <;> rfl
    · rfl

@[simp] theorem swapAtOpen_nodeAddr (n : CycleNo) (s : State) : (swapAtOpen n s).nodeAddr = s.nodeAddr := by rw [swapAtOpen_frame]
@[simp] theorem swapAtOpen_tripHigh (n : CycleNo) (s : State) : (swapAtOpen n s).tripHigh = s.tripHigh := by rw [swapAtOpen_frame]
@[simp] theorem swapAtOpen_faultLow (n : CycleNo) (s : State) : (swapAtOpen n s).faultLow = s.faultLow := by rw [swapAtOpen_frame]
@[simp] theorem swapAtOpen_upU (n : CycleNo) (s : State) : (swapAtOpen n s).upU = s.upU := by rw [swapAtOpen_frame]
@[simp] theorem swapAtOpen_upD (n : CycleNo) (s : State) : (swapAtOpen n s).upD = s.upD := by rw [swapAtOpen_frame]
@[simp] theorem swapAtOpen_rxU (n : CycleNo) (s : State) : (swapAtOpen n s).rxU = s.rxU := by rw [swapAtOpen_frame]
@[simp] theorem swapAtOpen_rxD (n : CycleNo) (s : State) : (swapAtOpen n s).rxD = s.rxD := by rw [swapAtOpen_frame]
@[simp] theorem swapAtOpen_txD (n : CycleNo) (s : State) : (swapAtOpen n s).txD = s.txD := by rw [swapAtOpen_frame]
@[simp] theorem swapAtOpen_txU (n : CycleNo) (s : State) : (swapAtOpen n s).txU = s.txU := by rw [swapAtOpen_frame]
@[simp] theorem swapAtOpen_forward (n : CycleNo) (s : State) : (swapAtOpen n s).forward = s.forward := by rw [swapAtOpen_frame]
@[simp] theorem swapAtOpen_ret (n : CycleNo) (s : State) : (swapAtOpen n s).ret = s.ret := by rw [swapAtOpen_frame]
@[simp] theorem swapAtOpen_replies (n : CycleNo) (s : State) : (swapAtOpen n s).replies = s.replies := by rw [swapAtOpen_frame]
@[simp] theorem swapAtOpen_slotOwed (n : CycleNo) (s : State) : (swapAtOpen n s).slotOwed = s.slotOwed := by rw [swapAtOpen_frame]
@[simp] theorem swapAtOpen_counters (n : CycleNo) (s : State) : (swapAtOpen n s).counters = s.counters := by rw [swapAtOpen_frame]
@[simp] theorem swapAtOpen_tracker (n : CycleNo) (s : State) : (swapAtOpen n s).tracker = s.tracker := by rw [swapAtOpen_frame]
@[simp] theorem swapAtOpen_repeats (n : CycleNo) (s : State) : (swapAtOpen n s).repeats = s.repeats := by rw [swapAtOpen_frame]
@[simp] theorem swapAtOpen_groups (n : CycleNo) (s : State) : (swapAtOpen n s).groups = s.groups := by rw [swapAtOpen_frame]
@[simp] theorem swapAtOpen_test (n : CycleNo) (s : State) : (swapAtOpen n s).test = s.test := by rw [swapAtOpen_frame]
@[simp] theorem swapAtOpen_cmdFifo (n : CycleNo) (s : State) : (swapAtOpen n s).cmdFifo = s.cmdFifo := by rw [swapAtOpen_frame]
@[simp] theorem swapAtOpen_pending (n : CycleNo) (s : State) : (swapAtOpen n s).pending = s.pending := by rw [swapAtOpen_frame]

theorem modeChangeAtOpen_frame (n : CycleNo) (s : State) :
    modeChangeAtOpen n s = { s with alertSlot := (modeChangeAtOpen n s).alertSlot, tables := (modeChangeAtOpen n s).tables, channels := (modeChangeAtOpen n s).channels, log := (modeChangeAtOpen n s).log, test := (modeChangeAtOpen n s).test } := by
  unfold modeChangeAtOpen
  split
  · split
    · rfl
    · rw [abortPendingTest_frame]; rfl
  · rfl

@[simp] theorem modeChangeAtOpen_nodeAddr (n : CycleNo) (s : State) : (modeChangeAtOpen n s).nodeAddr = s.nodeAddr := by rw [modeChangeAtOpen_frame]
@[simp] theorem modeChangeAtOpen_tripHigh (n : CycleNo) (s : State) : (modeChangeAtOpen n s).tripHigh = s.tripHigh := by rw [modeChangeAtOpen_frame]
@[simp] theorem modeChangeAtOpen_faultLow (n : CycleNo) (s : State) : (modeChangeAtOpen n s).faultLow = s.faultLow := by rw [modeChangeAtOpen_frame]
@[simp] theorem modeChangeAtOpen_upU (n : CycleNo) (s : State) : (modeChangeAtOpen n s).upU = s.upU := by rw [modeChangeAtOpen_frame]
@[simp] theorem modeChangeAtOpen_upD (n : CycleNo) (s : State) : (modeChangeAtOpen n s).upD = s.upD := by rw [modeChangeAtOpen_frame]
@[simp] theorem modeChangeAtOpen_rxU (n : CycleNo) (s : State) : (modeChangeAtOpen n s).rxU = s.rxU := by rw [modeChangeAtOpen_frame]
@[simp] theorem modeChangeAtOpen_rxD (n : CycleNo) (s : State) : (modeChangeAtOpen n s).rxD = s.rxD := by rw [modeChangeAtOpen_frame]
@[simp] theorem modeChangeAtOpen_txD (n : CycleNo) (s : State) : (modeChangeAtOpen n s).txD = s.txD := by rw [modeChangeAtOpen_frame]
@[simp] theorem modeChangeAtOpen_txU (n : CycleNo) (s : State) : (modeChangeAtOpen n s).txU = s.txU := by rw [modeChangeAtOpen_frame]
@[simp] theorem modeChangeAtOpen_forward (n : CycleNo) (s : State) : (modeChangeAtOpen n s).forward = s.forward := by rw [modeChangeAtOpen_frame]
@[simp] theorem modeChangeAtOpen_ret (n : CycleNo) (s : State) : (modeChangeAtOpen n s).ret = s.ret := by rw [modeChangeAtOpen_frame]
@[simp] theorem modeChangeAtOpen_replies (n : CycleNo) (s : State) : (modeChangeAtOpen n s).replies = s.replies := by rw [modeChangeAtOpen_frame]
@[simp] theorem modeChangeAtOpen_slotOwed (n : CycleNo) (s : State) : (modeChangeAtOpen n s).slotOwed = s.slotOwed := by rw [modeChangeAtOpen_frame]
@[simp] theorem modeChangeAtOpen_counters (n : CycleNo) (s : State) : (modeChangeAtOpen n s).counters = s.counters := by rw [modeChangeAtOpen_frame]
@[simp] theorem modeChangeAtOpen_tracker (n : CycleNo) (s : State) : (modeChangeAtOpen n s).tracker = s.tracker := by rw [modeChangeAtOpen_frame]
@[simp] theorem modeChangeAtOpen_repeats (n : CycleNo) (s : State) : (modeChangeAtOpen n s).repeats = s.repeats := by rw [modeChangeAtOpen_frame]
@[simp] theorem modeChangeAtOpen_groups (n : CycleNo) (s : State) : (modeChangeAtOpen n s).groups = s.groups := by rw [modeChangeAtOpen_frame]
@[simp] theorem modeChangeAtOpen_cmdFifo (n : CycleNo) (s : State) : (modeChangeAtOpen n s).cmdFifo = s.cmdFifo := by rw [modeChangeAtOpen_frame]
@[simp] theorem modeChangeAtOpen_pending (n : CycleNo) (s : State) : (modeChangeAtOpen n s).pending = s.pending := by rw [modeChangeAtOpen_frame]

theorem tableStoreOpen_frame (n : CycleNo) (s : State) :
    tableStoreOpen n s = { s with alertSlot := (tableStoreOpen n s).alertSlot, tables := (tableStoreOpen n s).tables, channels := (tableStoreOpen n s).channels, log := (tableStoreOpen n s).log, test := (tableStoreOpen n s).test } := by
  unfold tableStoreOpen
  rw [modeChangeAtOpen_frame, swapAtOpen_frame]

@[simp] theorem tableStoreOpen_nodeAddr (n : CycleNo) (s : State) : (tableStoreOpen n s).nodeAddr = s.nodeAddr := by rw [tableStoreOpen_frame]
@[simp] theorem tableStoreOpen_tripHigh (n : CycleNo) (s : State) : (tableStoreOpen n s).tripHigh = s.tripHigh := by rw [tableStoreOpen_frame]
@[simp] theorem tableStoreOpen_faultLow (n : CycleNo) (s : State) : (tableStoreOpen n s).faultLow = s.faultLow := by rw [tableStoreOpen_frame]
@[simp] theorem tableStoreOpen_upU (n : CycleNo) (s : State) : (tableStoreOpen n s).upU = s.upU := by rw [tableStoreOpen_frame]
@[simp] theorem tableStoreOpen_upD (n : CycleNo) (s : State) : (tableStoreOpen n s).upD = s.upD := by rw [tableStoreOpen_frame]
@[simp] theorem tableStoreOpen_rxU (n : CycleNo) (s : State) : (tableStoreOpen n s).rxU = s.rxU := by rw [tableStoreOpen_frame]
@[simp] theorem tableStoreOpen_rxD (n : CycleNo) (s : State) : (tableStoreOpen n s).rxD = s.rxD := by rw [tableStoreOpen_frame]
@[simp] theorem tableStoreOpen_txD (n : CycleNo) (s : State) : (tableStoreOpen n s).txD = s.txD := by rw [tableStoreOpen_frame]
@[simp] theorem tableStoreOpen_txU (n : CycleNo) (s : State) : (tableStoreOpen n s).txU = s.txU := by rw [tableStoreOpen_frame]
@[simp] theorem tableStoreOpen_forward (n : CycleNo) (s : State) : (tableStoreOpen n s).forward = s.forward := by rw [tableStoreOpen_frame]
@[simp] theorem tableStoreOpen_ret (n : CycleNo) (s : State) : (tableStoreOpen n s).ret = s.ret := by rw [tableStoreOpen_frame]
@[simp] theorem tableStoreOpen_replies (n : CycleNo) (s : State) : (tableStoreOpen n s).replies = s.replies := by rw [tableStoreOpen_frame]
@[simp] theorem tableStoreOpen_slotOwed (n : CycleNo) (s : State) : (tableStoreOpen n s).slotOwed = s.slotOwed := by rw [tableStoreOpen_frame]
@[simp] theorem tableStoreOpen_counters (n : CycleNo) (s : State) : (tableStoreOpen n s).counters = s.counters := by rw [tableStoreOpen_frame]
@[simp] theorem tableStoreOpen_tracker (n : CycleNo) (s : State) : (tableStoreOpen n s).tracker = s.tracker := by rw [tableStoreOpen_frame]
@[simp] theorem tableStoreOpen_repeats (n : CycleNo) (s : State) : (tableStoreOpen n s).repeats = s.repeats := by rw [tableStoreOpen_frame]
@[simp] theorem tableStoreOpen_groups (n : CycleNo) (s : State) : (tableStoreOpen n s).groups = s.groups := by rw [tableStoreOpen_frame]
@[simp] theorem tableStoreOpen_cmdFifo (n : CycleNo) (s : State) : (tableStoreOpen n s).cmdFifo = s.cmdFifo := by rw [tableStoreOpen_frame]
@[simp] theorem tableStoreOpen_pending (n : CycleNo) (s : State) : (tableStoreOpen n s).pending = s.pending := by rw [tableStoreOpen_frame]

theorem stepHoldoffs_frame (s : State) :
    stepHoldoffs s = { s with groups := (stepHoldoffs s).groups } := rfl

@[simp] theorem stepHoldoffs_nodeAddr (s : State) : (stepHoldoffs s).nodeAddr = s.nodeAddr := by rw [stepHoldoffs_frame]
@[simp] theorem stepHoldoffs_tripHigh (s : State) : (stepHoldoffs s).tripHigh = s.tripHigh := by rw [stepHoldoffs_frame]
@[simp] theorem stepHoldoffs_faultLow (s : State) : (stepHoldoffs s).faultLow = s.faultLow := by rw [stepHoldoffs_frame]
@[simp] theorem stepHoldoffs_upU (s : State) : (stepHoldoffs s).upU = s.upU := by rw [stepHoldoffs_frame]
@[simp] theorem stepHoldoffs_upD (s : State) : (stepHoldoffs s).upD = s.upD := by rw [stepHoldoffs_frame]
@[simp] theorem stepHoldoffs_rxU (s : State) : (stepHoldoffs s).rxU = s.rxU := by rw [stepHoldoffs_frame]
@[simp] theorem stepHoldoffs_rxD (s : State) : (stepHoldoffs s).rxD = s.rxD := by rw [stepHoldoffs_frame]
@[simp] theorem stepHoldoffs_txD (s : State) : (stepHoldoffs s).txD = s.txD := by rw [stepHoldoffs_frame]
@[simp] theorem stepHoldoffs_txU (s : State) : (stepHoldoffs s).txU = s.txU := by rw [stepHoldoffs_frame]
@[simp] theorem stepHoldoffs_forward (s : State) : (stepHoldoffs s).forward = s.forward := by rw [stepHoldoffs_frame]
@[simp] theorem stepHoldoffs_ret (s : State) : (stepHoldoffs s).ret = s.ret := by rw [stepHoldoffs_frame]
@[simp] theorem stepHoldoffs_replies (s : State) : (stepHoldoffs s).replies = s.replies := by rw [stepHoldoffs_frame]
@[simp] theorem stepHoldoffs_alertSlot (s : State) : (stepHoldoffs s).alertSlot = s.alertSlot := by rw [stepHoldoffs_frame]
@[simp] theorem stepHoldoffs_slotOwed (s : State) : (stepHoldoffs s).slotOwed = s.slotOwed := by rw [stepHoldoffs_frame]
@[simp] theorem stepHoldoffs_counters (s : State) : (stepHoldoffs s).counters = s.counters := by rw [stepHoldoffs_frame]
@[simp] theorem stepHoldoffs_tables (s : State) : (stepHoldoffs s).tables = s.tables := by rw [stepHoldoffs_frame]
@[simp] theorem stepHoldoffs_tracker (s : State) : (stepHoldoffs s).tracker = s.tracker := by rw [stepHoldoffs_frame]
@[simp] theorem stepHoldoffs_repeats (s : State) : (stepHoldoffs s).repeats = s.repeats := by rw [stepHoldoffs_frame]
@[simp] theorem stepHoldoffs_channels (s : State) : (stepHoldoffs s).channels = s.channels := by rw [stepHoldoffs_frame]
@[simp] theorem stepHoldoffs_log (s : State) : (stepHoldoffs s).log = s.log := by rw [stepHoldoffs_frame]
@[simp] theorem stepHoldoffs_test (s : State) : (stepHoldoffs s).test = s.test := by rw [stepHoldoffs_frame]
@[simp] theorem stepHoldoffs_cmdFifo (s : State) : (stepHoldoffs s).cmdFifo = s.cmdFifo := by rw [stepHoldoffs_frame]
@[simp] theorem stepHoldoffs_pending (s : State) : (stepHoldoffs s).pending = s.pending := by rw [stepHoldoffs_frame]

theorem autoRearmOver_frame (l : List Grp) (s : State) :
    autoRearmOver l s = { s with faultLow := (autoRearmOver l s).faultLow, alertSlot := (autoRearmOver l s).alertSlot, groups := (autoRearmOver l s).groups, log := (autoRearmOver l s).log } := by
  induction l generalizing s with
  | nil => rfl
  | cons g l ih =>
    rw [autoRearmOver, ih]
    split <;> rfl

@[simp] theorem autoRearmOver_nodeAddr (l : List Grp) (s : State) : (autoRearmOver l s).nodeAddr = s.nodeAddr := by rw [autoRearmOver_frame]
@[simp] theorem autoRearmOver_tripHigh (l : List Grp) (s : State) : (autoRearmOver l s).tripHigh = s.tripHigh := by rw [autoRearmOver_frame]
@[simp] theorem autoRearmOver_upU (l : List Grp) (s : State) : (autoRearmOver l s).upU = s.upU := by rw [autoRearmOver_frame]
@[simp] theorem autoRearmOver_upD (l : List Grp) (s : State) : (autoRearmOver l s).upD = s.upD := by rw [autoRearmOver_frame]
@[simp] theorem autoRearmOver_rxU (l : List Grp) (s : State) : (autoRearmOver l s).rxU = s.rxU := by rw [autoRearmOver_frame]
@[simp] theorem autoRearmOver_rxD (l : List Grp) (s : State) : (autoRearmOver l s).rxD = s.rxD := by rw [autoRearmOver_frame]
@[simp] theorem autoRearmOver_txD (l : List Grp) (s : State) : (autoRearmOver l s).txD = s.txD := by rw [autoRearmOver_frame]
@[simp] theorem autoRearmOver_txU (l : List Grp) (s : State) : (autoRearmOver l s).txU = s.txU := by rw [autoRearmOver_frame]
@[simp] theorem autoRearmOver_forward (l : List Grp) (s : State) : (autoRearmOver l s).forward = s.forward := by rw [autoRearmOver_frame]
@[simp] theorem autoRearmOver_ret (l : List Grp) (s : State) : (autoRearmOver l s).ret = s.ret := by rw [autoRearmOver_frame]
@[simp] theorem autoRearmOver_replies (l : List Grp) (s : State) : (autoRearmOver l s).replies = s.replies := by rw [autoRearmOver_frame]
@[simp] theorem autoRearmOver_slotOwed (l : List Grp) (s : State) : (autoRearmOver l s).slotOwed = s.slotOwed := by rw [autoRearmOver_frame]
@[simp] theorem autoRearmOver_counters (l : List Grp) (s : State) : (autoRearmOver l s).counters = s.counters := by rw [autoRearmOver_frame]
@[simp] theorem autoRearmOver_tables (l : List Grp) (s : State) : (autoRearmOver l s).tables = s.tables := by rw [autoRearmOver_frame]
@[simp] theorem autoRearmOver_tracker (l : List Grp) (s : State) : (autoRearmOver l s).tracker = s.tracker := by rw [autoRearmOver_frame]
@[simp] theorem autoRearmOver_repeats (l : List Grp) (s : State) : (autoRearmOver l s).repeats = s.repeats := by rw [autoRearmOver_frame]
@[simp] theorem autoRearmOver_channels (l : List Grp) (s : State) : (autoRearmOver l s).channels = s.channels := by rw [autoRearmOver_frame]
@[simp] theorem autoRearmOver_test (l : List Grp) (s : State) : (autoRearmOver l s).test = s.test := by rw [autoRearmOver_frame]
@[simp] theorem autoRearmOver_cmdFifo (l : List Grp) (s : State) : (autoRearmOver l s).cmdFifo = s.cmdFifo := by rw [autoRearmOver_frame]
@[simp] theorem autoRearmOver_pending (l : List Grp) (s : State) : (autoRearmOver l s).pending = s.pending := by rw [autoRearmOver_frame]

theorem groupsOpen_frame (s : State) :
    groupsOpen s = { s with faultLow := (groupsOpen s).faultLow, alertSlot := (groupsOpen s).alertSlot, groups := (groupsOpen s).groups, log := (groupsOpen s).log } := by
  unfold groupsOpen
  rw [autoRearmOver_frame, stepHoldoffs_frame]

@[simp] theorem groupsOpen_nodeAddr (s : State) : (groupsOpen s).nodeAddr = s.nodeAddr := by rw [groupsOpen_frame]
@[simp] theorem groupsOpen_tripHigh (s : State) : (groupsOpen s).tripHigh = s.tripHigh := by rw [groupsOpen_frame]
@[simp] theorem groupsOpen_upU (s : State) : (groupsOpen s).upU = s.upU := by rw [groupsOpen_frame]
@[simp] theorem groupsOpen_upD (s : State) : (groupsOpen s).upD = s.upD := by rw [groupsOpen_frame]
@[simp] theorem groupsOpen_rxU (s : State) : (groupsOpen s).rxU = s.rxU := by rw [groupsOpen_frame]
@[simp] theorem groupsOpen_rxD (s : State) : (groupsOpen s).rxD = s.rxD := by rw [groupsOpen_frame]
@[simp] theorem groupsOpen_txD (s : State) : (groupsOpen s).txD = s.txD := by rw [groupsOpen_frame]
@[simp] theorem groupsOpen_txU (s : State) : (groupsOpen s).txU = s.txU := by rw [groupsOpen_frame]
@[simp] theorem groupsOpen_forward (s : State) : (groupsOpen s).forward = s.forward := by rw [groupsOpen_frame]
@[simp] theorem groupsOpen_ret (s : State) : (groupsOpen s).ret = s.ret := by rw [groupsOpen_frame]
@[simp] theorem groupsOpen_replies (s : State) : (groupsOpen s).replies = s.replies := by rw [groupsOpen_frame]
@[simp] theorem groupsOpen_slotOwed (s : State) : (groupsOpen s).slotOwed = s.slotOwed := by rw [groupsOpen_frame]
@[simp] theorem groupsOpen_counters (s : State) : (groupsOpen s).counters = s.counters := by rw [groupsOpen_frame]
@[simp] theorem groupsOpen_tables (s : State) : (groupsOpen s).tables = s.tables := by rw [groupsOpen_frame]
@[simp] theorem groupsOpen_tracker (s : State) : (groupsOpen s).tracker = s.tracker := by rw [groupsOpen_frame]
@[simp] theorem groupsOpen_repeats (s : State) : (groupsOpen s).repeats = s.repeats := by rw [groupsOpen_frame]
@[simp] theorem groupsOpen_channels (s : State) : (groupsOpen s).channels = s.channels := by rw [groupsOpen_frame]
@[simp] theorem groupsOpen_test (s : State) : (groupsOpen s).test = s.test := by rw [groupsOpen_frame]
@[simp] theorem groupsOpen_cmdFifo (s : State) : (groupsOpen s).cmdFifo = s.cmdFifo := by rw [groupsOpen_frame]
@[simp] theorem groupsOpen_pending (s : State) : (groupsOpen s).pending = s.pending := by rw [groupsOpen_frame]

theorem startTimer_frame (s : State) :
    startTimer s = { s with tracker := (startTimer s).tracker } := rfl

@[simp] theorem startTimer_nodeAddr (s : State) : (startTimer s).nodeAddr = s.nodeAddr := by rw [startTimer_frame]
@[simp] theorem startTimer_tripHigh (s : State) : (startTimer s).tripHigh = s.tripHigh := by rw [startTimer_frame]
@[simp] theorem startTimer_faultLow (s : State) : (startTimer s).faultLow = s.faultLow := by rw [startTimer_frame]
@[simp] theorem startTimer_upU (s : State) : (startTimer s).upU = s.upU := by rw [startTimer_frame]
@[simp] theorem startTimer_upD (s : State) : (startTimer s).upD = s.upD := by rw [startTimer_frame]
@[simp] theorem startTimer_rxU (s : State) : (startTimer s).rxU = s.rxU := by rw [startTimer_frame]
@[simp] theorem startTimer_rxD (s : State) : (startTimer s).rxD = s.rxD := by rw [startTimer_frame]
@[simp] theorem startTimer_txD (s : State) : (startTimer s).txD = s.txD := by rw [startTimer_frame]
@[simp] theorem startTimer_txU (s : State) : (startTimer s).txU = s.txU := by rw [startTimer_frame]
@[simp] theorem startTimer_forward (s : State) : (startTimer s).forward = s.forward := by rw [startTimer_frame]
@[simp] theorem startTimer_ret (s : State) : (startTimer s).ret = s.ret := by rw [startTimer_frame]
@[simp] theorem startTimer_replies (s : State) : (startTimer s).replies = s.replies := by rw [startTimer_frame]
@[simp] theorem startTimer_alertSlot (s : State) : (startTimer s).alertSlot = s.alertSlot := by rw [startTimer_frame]
@[simp] theorem startTimer_slotOwed (s : State) : (startTimer s).slotOwed = s.slotOwed := by rw [startTimer_frame]
@[simp] theorem startTimer_counters (s : State) : (startTimer s).counters = s.counters := by rw [startTimer_frame]
@[simp] theorem startTimer_tables (s : State) : (startTimer s).tables = s.tables := by rw [startTimer_frame]
@[simp] theorem startTimer_repeats (s : State) : (startTimer s).repeats = s.repeats := by rw [startTimer_frame]
@[simp] theorem startTimer_channels (s : State) : (startTimer s).channels = s.channels := by rw [startTimer_frame]
@[simp] theorem startTimer_groups (s : State) : (startTimer s).groups = s.groups := by rw [startTimer_frame]
@[simp] theorem startTimer_log (s : State) : (startTimer s).log = s.log := by rw [startTimer_frame]
@[simp] theorem startTimer_test (s : State) : (startTimer s).test = s.test := by rw [startTimer_frame]
@[simp] theorem startTimer_cmdFifo (s : State) : (startTimer s).cmdFifo = s.cmdFifo := by rw [startTimer_frame]
@[simp] theorem startTimer_pending (s : State) : (startTimer s).pending = s.pending := by rw [startTimer_frame]

theorem beginCycle_frame (n : CycleNo) (i : Nat) (s : State) :
    beginCycle n i s = { s with tracker := (beginCycle n i s).tracker, repeats := (beginCycle n i s).repeats } := rfl

@[simp] theorem beginCycle_nodeAddr (n : CycleNo) (i : Nat) (s : State) : (beginCycle n i s).nodeAddr = s.nodeAddr := by rw [beginCycle_frame]
@[simp] theorem beginCycle_tripHigh (n : CycleNo) (i : Nat) (s : State) : (beginCycle n i s).tripHigh = s.tripHigh := by rw [beginCycle_frame]
@[simp] theorem beginCycle_faultLow (n : CycleNo) (i : Nat) (s : State) : (beginCycle n i s).faultLow = s.faultLow := by rw [beginCycle_frame]
@[simp] theorem beginCycle_upU (n : CycleNo) (i : Nat) (s : State) : (beginCycle n i s).upU = s.upU := by rw [beginCycle_frame]
@[simp] theorem beginCycle_upD (n : CycleNo) (i : Nat) (s : State) : (beginCycle n i s).upD = s.upD := by rw [beginCycle_frame]
@[simp] theorem beginCycle_rxU (n : CycleNo) (i : Nat) (s : State) : (beginCycle n i s).rxU = s.rxU := by rw [beginCycle_frame]
@[simp] theorem beginCycle_rxD (n : CycleNo) (i : Nat) (s : State) : (beginCycle n i s).rxD = s.rxD := by rw [beginCycle_frame]
@[simp] theorem beginCycle_txD (n : CycleNo) (i : Nat) (s : State) : (beginCycle n i s).txD = s.txD := by rw [beginCycle_frame]
@[simp] theorem beginCycle_txU (n : CycleNo) (i : Nat) (s : State) : (beginCycle n i s).txU = s.txU := by rw [beginCycle_frame]
@[simp] theorem beginCycle_forward (n : CycleNo) (i : Nat) (s : State) : (beginCycle n i s).forward = s.forward := by rw [beginCycle_frame]
@[simp] theorem beginCycle_ret (n : CycleNo) (i : Nat) (s : State) : (beginCycle n i s).ret = s.ret := by rw [beginCycle_frame]
@[simp] theorem beginCycle_replies (n : CycleNo) (i : Nat) (s : State) : (beginCycle n i s).replies = s.replies := by rw [beginCycle_frame]
@[simp] theorem beginCycle_alertSlot (n : CycleNo) (i : Nat) (s : State) : (beginCycle n i s).alertSlot = s.alertSlot := by rw [beginCycle_frame]
@[simp] theorem beginCycle_slotOwed (n : CycleNo) (i : Nat) (s : State) : (beginCycle n i s).slotOwed = s.slotOwed := by rw [beginCycle_frame]
@[simp] theorem beginCycle_counters (n : CycleNo) (i : Nat) (s : State) : (beginCycle n i s).counters = s.counters := by rw [beginCycle_frame]
@[simp] theorem beginCycle_tables (n : CycleNo) (i : Nat) (s : State) : (beginCycle n i s).tables = s.tables := by rw [beginCycle_frame]
@[simp] theorem beginCycle_channels (n : CycleNo) (i : Nat) (s : State) : (beginCycle n i s).channels = s.channels := by rw [beginCycle_frame]
@[simp] theorem beginCycle_groups (n : CycleNo) (i : Nat) (s : State) : (beginCycle n i s).groups = s.groups := by rw [beginCycle_frame]
@[simp] theorem beginCycle_log (n : CycleNo) (i : Nat) (s : State) : (beginCycle n i s).log = s.log := by rw [beginCycle_frame]
@[simp] theorem beginCycle_test (n : CycleNo) (i : Nat) (s : State) : (beginCycle n i s).test = s.test := by rw [beginCycle_frame]
@[simp] theorem beginCycle_cmdFifo (n : CycleNo) (i : Nat) (s : State) : (beginCycle n i s).cmdFifo = s.cmdFifo := by rw [beginCycle_frame]
@[simp] theorem beginCycle_pending (n : CycleNo) (i : Nat) (s : State) : (beginCycle n i s).pending = s.pending := by rw [beginCycle_frame]

theorem openCycle_frame (n : CycleNo) (i : Nat) (s : State) :
    openCycle n i s = { s with faultLow := (openCycle n i s).faultLow, alertSlot := (openCycle n i s).alertSlot, tables := (openCycle n i s).tables, tracker := (openCycle n i s).tracker, repeats := (openCycle n i s).repeats, channels := (openCycle n i s).channels, groups := (openCycle n i s).groups, log := (openCycle n i s).log, test := (openCycle n i s).test } := by
  unfold openCycle
  rw [startTimer_frame, groupsOpen_frame, tableStoreOpen_frame, beginCycle_frame]

@[simp] theorem openCycle_nodeAddr (n : CycleNo) (i : Nat) (s : State) : (openCycle n i s).nodeAddr = s.nodeAddr := by rw [openCycle_frame]
@[simp] theorem openCycle_tripHigh (n : CycleNo) (i : Nat) (s : State) : (openCycle n i s).tripHigh = s.tripHigh := by rw [openCycle_frame]
@[simp] theorem openCycle_upU (n : CycleNo) (i : Nat) (s : State) : (openCycle n i s).upU = s.upU := by rw [openCycle_frame]
@[simp] theorem openCycle_upD (n : CycleNo) (i : Nat) (s : State) : (openCycle n i s).upD = s.upD := by rw [openCycle_frame]
@[simp] theorem openCycle_rxU (n : CycleNo) (i : Nat) (s : State) : (openCycle n i s).rxU = s.rxU := by rw [openCycle_frame]
@[simp] theorem openCycle_rxD (n : CycleNo) (i : Nat) (s : State) : (openCycle n i s).rxD = s.rxD := by rw [openCycle_frame]
@[simp] theorem openCycle_txD (n : CycleNo) (i : Nat) (s : State) : (openCycle n i s).txD = s.txD := by rw [openCycle_frame]
@[simp] theorem openCycle_txU (n : CycleNo) (i : Nat) (s : State) : (openCycle n i s).txU = s.txU := by rw [openCycle_frame]
@[simp] theorem openCycle_forward (n : CycleNo) (i : Nat) (s : State) : (openCycle n i s).forward = s.forward := by rw [openCycle_frame]
@[simp] theorem openCycle_ret (n : CycleNo) (i : Nat) (s : State) : (openCycle n i s).ret = s.ret := by rw [openCycle_frame]
@[simp] theorem openCycle_replies (n : CycleNo) (i : Nat) (s : State) : (openCycle n i s).replies = s.replies := by rw [openCycle_frame]
@[simp] theorem openCycle_slotOwed (n : CycleNo) (i : Nat) (s : State) : (openCycle n i s).slotOwed = s.slotOwed := by rw [openCycle_frame]
@[simp] theorem openCycle_counters (n : CycleNo) (i : Nat) (s : State) : (openCycle n i s).counters = s.counters := by rw [openCycle_frame]
@[simp] theorem openCycle_cmdFifo (n : CycleNo) (i : Nat) (s : State) : (openCycle n i s).cmdFifo = s.cmdFifo := by rw [openCycle_frame]
@[simp] theorem openCycle_pending (n : CycleNo) (i : Nat) (s : State) : (openCycle n i s).pending = s.pending := by rw [openCycle_frame]

theorem enterForward_frame (f : Frame) (s : State) :
    enterForward f s = { s with forward := (enterForward f s).forward } := rfl

@[simp] theorem enterForward_nodeAddr (f : Frame) (s : State) : (enterForward f s).nodeAddr = s.nodeAddr := by rw [enterForward_frame]
@[simp] theorem enterForward_tripHigh (f : Frame) (s : State) : (enterForward f s).tripHigh = s.tripHigh := by rw [enterForward_frame]
@[simp] theorem enterForward_faultLow (f : Frame) (s : State) : (enterForward f s).faultLow = s.faultLow := by rw [enterForward_frame]
@[simp] theorem enterForward_upU (f : Frame) (s : State) : (enterForward f s).upU = s.upU := by rw [enterForward_frame]
@[simp] theorem enterForward_upD (f : Frame) (s : State) : (enterForward f s).upD = s.upD := by rw [enterForward_frame]
@[simp] theorem enterForward_rxU (f : Frame) (s : State) : (enterForward f s).rxU = s.rxU := by rw [enterForward_frame]
@[simp] theorem enterForward_rxD (f : Frame) (s : State) : (enterForward f s).rxD = s.rxD := by rw [enterForward_frame]
@[simp] theorem enterForward_txD (f : Frame) (s : State) : (enterForward f s).txD = s.txD := by rw [enterForward_frame]
@[simp] theorem enterForward_txU (f : Frame) (s : State) : (enterForward f s).txU = s.txU := by rw [enterForward_frame]
@[simp] theorem enterForward_ret (f : Frame) (s : State) : (enterForward f s).ret = s.ret := by rw [enterForward_frame]
@[simp] theorem enterForward_replies (f : Frame) (s : State) : (enterForward f s).replies = s.replies := by rw [enterForward_frame]
@[simp] theorem enterForward_alertSlot (f : Frame) (s : State) : (enterForward f s).alertSlot = s.alertSlot := by rw [enterForward_frame]
@[simp] theorem enterForward_slotOwed (f : Frame) (s : State) : (enterForward f s).slotOwed = s.slotOwed := by rw [enterForward_frame]
@[simp] theorem enterForward_counters (f : Frame) (s : State) : (enterForward f s).counters = s.counters := by rw [enterForward_frame]
@[simp] theorem enterForward_tables (f : Frame) (s : State) : (enterForward f s).tables = s.tables := by rw [enterForward_frame]
@[simp] theorem enterForward_tracker (f : Frame) (s : State) : (enterForward f s).tracker = s.tracker := by rw [enterForward_frame]
@[simp] theorem enterForward_repeats (f : Frame) (s : State) : (enterForward f s).repeats = s.repeats := by rw [enterForward_frame]
@[simp] theorem enterForward_channels (f : Frame) (s : State) : (enterForward f s).channels = s.channels := by rw [enterForward_frame]
@[simp] theorem enterForward_groups (f : Frame) (s : State) : (enterForward f s).groups = s.groups := by rw [enterForward_frame]
@[simp] theorem enterForward_log (f : Frame) (s : State) : (enterForward f s).log = s.log := by rw [enterForward_frame]
@[simp] theorem enterForward_test (f : Frame) (s : State) : (enterForward f s).test = s.test := by rw [enterForward_frame]
@[simp] theorem enterForward_cmdFifo (f : Frame) (s : State) : (enterForward f s).cmdFifo = s.cmdFifo := by rw [enterForward_frame]
@[simp] theorem enterForward_pending (f : Frame) (s : State) : (enterForward f s).pending = s.pending := by rw [enterForward_frame]

theorem enterSegment_frame (g : Segment) (s : State) :
    enterSegment g s = { s with forward := (enterSegment g s).forward } := rfl

@[simp] theorem enterSegment_nodeAddr (g : Segment) (s : State) : (enterSegment g s).nodeAddr = s.nodeAddr := by rw [enterSegment_frame]
@[simp] theorem enterSegment_tripHigh (g : Segment) (s : State) : (enterSegment g s).tripHigh = s.tripHigh := by rw [enterSegment_frame]
@[simp] theorem enterSegment_faultLow (g : Segment) (s : State) : (enterSegment g s).faultLow = s.faultLow := by rw [enterSegment_frame]
@[simp] theorem enterSegment_upU (g : Segment) (s : State) : (enterSegment g s).upU = s.upU := by rw [enterSegment_frame]
@[simp] theorem enterSegment_upD (g : Segment) (s : State) : (enterSegment g s).upD = s.upD := by rw [enterSegment_frame]
@[simp] theorem enterSegment_rxU (g : Segment) (s : State) : (enterSegment g s).rxU = s.rxU := by rw [enterSegment_frame]
@[simp] theorem enterSegment_rxD (g : Segment) (s : State) : (enterSegment g s).rxD = s.rxD := by rw [enterSegment_frame]
@[simp] theorem enterSegment_txD (g : Segment) (s : State) : (enterSegment g s).txD = s.txD := by rw [enterSegment_frame]
@[simp] theorem enterSegment_txU (g : Segment) (s : State) : (enterSegment g s).txU = s.txU := by rw [enterSegment_frame]
@[simp] theorem enterSegment_ret (g : Segment) (s : State) : (enterSegment g s).ret = s.ret := by rw [enterSegment_frame]
@[simp] theorem enterSegment_replies (g : Segment) (s : State) : (enterSegment g s).replies = s.replies := by rw [enterSegment_frame]
@[simp] theorem enterSegment_alertSlot (g : Segment) (s : State) : (enterSegment g s).alertSlot = s.alertSlot := by rw [enterSegment_frame]
@[simp] theorem enterSegment_slotOwed (g : Segment) (s : State) : (enterSegment g s).slotOwed = s.slotOwed := by rw [enterSegment_frame]
@[simp] theorem enterSegment_counters (g : Segment) (s : State) : (enterSegment g s).counters = s.counters := by rw [enterSegment_frame]
@[simp] theorem enterSegment_tables (g : Segment) (s : State) : (enterSegment g s).tables = s.tables := by rw [enterSegment_frame]
@[simp] theorem enterSegment_tracker (g : Segment) (s : State) : (enterSegment g s).tracker = s.tracker := by rw [enterSegment_frame]
@[simp] theorem enterSegment_repeats (g : Segment) (s : State) : (enterSegment g s).repeats = s.repeats := by rw [enterSegment_frame]
@[simp] theorem enterSegment_channels (g : Segment) (s : State) : (enterSegment g s).channels = s.channels := by rw [enterSegment_frame]
@[simp] theorem enterSegment_groups (g : Segment) (s : State) : (enterSegment g s).groups = s.groups := by rw [enterSegment_frame]
@[simp] theorem enterSegment_log (g : Segment) (s : State) : (enterSegment g s).log = s.log := by rw [enterSegment_frame]
@[simp] theorem enterSegment_test (g : Segment) (s : State) : (enterSegment g s).test = s.test := by rw [enterSegment_frame]
@[simp] theorem enterSegment_cmdFifo (g : Segment) (s : State) : (enterSegment g s).cmdFifo = s.cmdFifo := by rw [enterSegment_frame]
@[simp] theorem enterSegment_pending (g : Segment) (s : State) : (enterSegment g s).pending = s.pending := by rw [enterSegment_frame]

theorem dropIncomplete_frame (s : State) :
    dropIncomplete s = { s with forward := (dropIncomplete s).forward } := rfl

@[simp] theorem dropIncomplete_nodeAddr (s : State) : (dropIncomplete s).nodeAddr = s.nodeAddr := by rw [dropIncomplete_frame]
@[simp] theorem dropIncomplete_tripHigh (s : State) : (dropIncomplete s).tripHigh = s.tripHigh := by rw [dropIncomplete_frame]
@[simp] theorem dropIncomplete_faultLow (s : State) : (dropIncomplete s).faultLow = s.faultLow := by rw [dropIncomplete_frame]
@[simp] theorem dropIncomplete_upU (s : State) : (dropIncomplete s).upU = s.upU := by rw [dropIncomplete_frame]
@[simp] theorem dropIncomplete_upD (s : State) : (dropIncomplete s).upD = s.upD := by rw [dropIncomplete_frame]
@[simp] theorem dropIncomplete_rxU (s : State) : (dropIncomplete s).rxU = s.rxU := by rw [dropIncomplete_frame]
@[simp] theorem dropIncomplete_rxD (s : State) : (dropIncomplete s).rxD = s.rxD := by rw [dropIncomplete_frame]
@[simp] theorem dropIncomplete_txD (s : State) : (dropIncomplete s).txD = s.txD := by rw [dropIncomplete_frame]
@[simp] theorem dropIncomplete_txU (s : State) : (dropIncomplete s).txU = s.txU := by rw [dropIncomplete_frame]
@[simp] theorem dropIncomplete_ret (s : State) : (dropIncomplete s).ret = s.ret := by rw [dropIncomplete_frame]
@[simp] theorem dropIncomplete_replies (s : State) : (dropIncomplete s).replies = s.replies := by rw [dropIncomplete_frame]
@[simp] theorem dropIncomplete_alertSlot (s : State) : (dropIncomplete s).alertSlot = s.alertSlot := by rw [dropIncomplete_frame]
@[simp] theorem dropIncomplete_slotOwed (s : State) : (dropIncomplete s).slotOwed = s.slotOwed := by rw [dropIncomplete_frame]
@[simp] theorem dropIncomplete_counters (s : State) : (dropIncomplete s).counters = s.counters := by rw [dropIncomplete_frame]
@[simp] theorem dropIncomplete_tables (s : State) : (dropIncomplete s).tables = s.tables := by rw [dropIncomplete_frame]
@[simp] theorem dropIncomplete_tracker (s : State) : (dropIncomplete s).tracker = s.tracker := by rw [dropIncomplete_frame]
@[simp] theorem dropIncomplete_repeats (s : State) : (dropIncomplete s).repeats = s.repeats := by rw [dropIncomplete_frame]
@[simp] theorem dropIncomplete_channels (s : State) : (dropIncomplete s).channels = s.channels := by rw [dropIncomplete_frame]
@[simp] theorem dropIncomplete_groups (s : State) : (dropIncomplete s).groups = s.groups := by rw [dropIncomplete_frame]
@[simp] theorem dropIncomplete_log (s : State) : (dropIncomplete s).log = s.log := by rw [dropIncomplete_frame]
@[simp] theorem dropIncomplete_test (s : State) : (dropIncomplete s).test = s.test := by rw [dropIncomplete_frame]
@[simp] theorem dropIncomplete_cmdFifo (s : State) : (dropIncomplete s).cmdFifo = s.cmdFifo := by rw [dropIncomplete_frame]
@[simp] theorem dropIncomplete_pending (s : State) : (dropIncomplete s).pending = s.pending := by rw [dropIncomplete_frame]

theorem completeFrames_frame (s : State) :
    completeFrames s = { s with forward := (completeFrames s).forward } := rfl

@[simp] theorem completeFrames_nodeAddr (s : State) : (completeFrames s).nodeAddr = s.nodeAddr := by rw [completeFrames_frame]
@[simp] theorem completeFrames_tripHigh (s : State) : (completeFrames s).tripHigh = s.tripHigh := by rw [completeFrames_frame]
@[simp] theorem completeFrames_faultLow (s : State) : (completeFrames s).faultLow = s.faultLow := by rw [completeFrames_frame]
@[simp] theorem completeFrames_upU (s : State) : (completeFrames s).upU = s.upU := by rw [completeFrames_frame]
@[simp] theorem completeFrames_upD (s : State) : (completeFrames s).upD = s.upD := by rw [completeFrames_frame]
@[simp] theorem completeFrames_rxU (s : State) : (completeFrames s).rxU = s.rxU := by rw [completeFrames_frame]
@[simp] theorem completeFrames_rxD (s : State) : (completeFrames s).rxD = s.rxD := by rw [completeFrames_frame]
@[simp] theorem completeFrames_txD (s : State) : (completeFrames s).txD = s.txD := by rw [completeFrames_frame]
@[simp] theorem completeFrames_txU (s : State) : (completeFrames s).txU = s.txU := by rw [completeFrames_frame]
@[simp] theorem completeFrames_ret (s : State) : (completeFrames s).ret = s.ret := by rw [completeFrames_frame]
@[simp] theorem completeFrames_replies (s : State) : (completeFrames s).replies = s.replies := by rw [completeFrames_frame]
@[simp] theorem completeFrames_alertSlot (s : State) : (completeFrames s).alertSlot = s.alertSlot := by rw [completeFrames_frame]
@[simp] theorem completeFrames_slotOwed (s : State) : (completeFrames s).slotOwed = s.slotOwed := by rw [completeFrames_frame]
@[simp] theorem completeFrames_counters (s : State) : (completeFrames s).counters = s.counters := by rw [completeFrames_frame]
@[simp] theorem completeFrames_tables (s : State) : (completeFrames s).tables = s.tables := by rw [completeFrames_frame]
@[simp] theorem completeFrames_tracker (s : State) : (completeFrames s).tracker = s.tracker := by rw [completeFrames_frame]
@[simp] theorem completeFrames_repeats (s : State) : (completeFrames s).repeats = s.repeats := by rw [completeFrames_frame]
@[simp] theorem completeFrames_channels (s : State) : (completeFrames s).channels = s.channels := by rw [completeFrames_frame]
@[simp] theorem completeFrames_groups (s : State) : (completeFrames s).groups = s.groups := by rw [completeFrames_frame]
@[simp] theorem completeFrames_log (s : State) : (completeFrames s).log = s.log := by rw [completeFrames_frame]
@[simp] theorem completeFrames_test (s : State) : (completeFrames s).test = s.test := by rw [completeFrames_frame]
@[simp] theorem completeFrames_cmdFifo (s : State) : (completeFrames s).cmdFifo = s.cmdFifo := by rw [completeFrames_frame]
@[simp] theorem completeFrames_pending (s : State) : (completeFrames s).pending = s.pending := by rw [completeFrames_frame]

theorem rewriteEntries_frame (g : Segment) (l : List SampleEntry) (s : State) :
    rewriteEntries g l s = { s with forward := (rewriteEntries g l s).forward } := rfl

@[simp] theorem rewriteEntries_nodeAddr (g : Segment) (l : List SampleEntry) (s : State) : (rewriteEntries g l s).nodeAddr = s.nodeAddr := by rw [rewriteEntries_frame]
@[simp] theorem rewriteEntries_tripHigh (g : Segment) (l : List SampleEntry) (s : State) : (rewriteEntries g l s).tripHigh = s.tripHigh := by rw [rewriteEntries_frame]
@[simp] theorem rewriteEntries_faultLow (g : Segment) (l : List SampleEntry) (s : State) : (rewriteEntries g l s).faultLow = s.faultLow := by rw [rewriteEntries_frame]
@[simp] theorem rewriteEntries_upU (g : Segment) (l : List SampleEntry) (s : State) : (rewriteEntries g l s).upU = s.upU := by rw [rewriteEntries_frame]
@[simp] theorem rewriteEntries_upD (g : Segment) (l : List SampleEntry) (s : State) : (rewriteEntries g l s).upD = s.upD := by rw [rewriteEntries_frame]
@[simp] theorem rewriteEntries_rxU (g : Segment) (l : List SampleEntry) (s : State) : (rewriteEntries g l s).rxU = s.rxU := by rw [rewriteEntries_frame]
@[simp] theorem rewriteEntries_rxD (g : Segment) (l : List SampleEntry) (s : State) : (rewriteEntries g l s).rxD = s.rxD := by rw [rewriteEntries_frame]
@[simp] theorem rewriteEntries_txD (g : Segment) (l : List SampleEntry) (s : State) : (rewriteEntries g l s).txD = s.txD := by rw [rewriteEntries_frame]
@[simp] theorem rewriteEntries_txU (g : Segment) (l : List SampleEntry) (s : State) : (rewriteEntries g l s).txU = s.txU := by rw [rewriteEntries_frame]
@[simp] theorem rewriteEntries_ret (g : Segment) (l : List SampleEntry) (s : State) : (rewriteEntries g l s).ret = s.ret := by rw [rewriteEntries_frame]
@[simp] theorem rewriteEntries_replies (g : Segment) (l : List SampleEntry) (s : State) : (rewriteEntries g l s).replies = s.replies := by rw [rewriteEntries_frame]
@[simp] theorem rewriteEntries_alertSlot (g : Segment) (l : List SampleEntry) (s : State) : (rewriteEntries g l s).alertSlot = s.alertSlot := by rw [rewriteEntries_frame]
@[simp] theorem rewriteEntries_slotOwed (g : Segment) (l : List SampleEntry) (s : State) : (rewriteEntries g l s).slotOwed = s.slotOwed := by rw [rewriteEntries_frame]
@[simp] theorem rewriteEntries_counters (g : Segment) (l : List SampleEntry) (s : State) : (rewriteEntries g l s).counters = s.counters := by rw [rewriteEntries_frame]
@[simp] theorem rewriteEntries_tables (g : Segment) (l : List SampleEntry) (s : State) : (rewriteEntries g l s).tables = s.tables := by rw [rewriteEntries_frame]
@[simp] theorem rewriteEntries_tracker (g : Segment) (l : List SampleEntry) (s : State) : (rewriteEntries g l s).tracker = s.tracker := by rw [rewriteEntries_frame]
@[simp] theorem rewriteEntries_repeats (g : Segment) (l : List SampleEntry) (s : State) : (rewriteEntries g l s).repeats = s.repeats := by rw [rewriteEntries_frame]
@[simp] theorem rewriteEntries_channels (g : Segment) (l : List SampleEntry) (s : State) : (rewriteEntries g l s).channels = s.channels := by rw [rewriteEntries_frame]
@[simp] theorem rewriteEntries_groups (g : Segment) (l : List SampleEntry) (s : State) : (rewriteEntries g l s).groups = s.groups := by rw [rewriteEntries_frame]
@[simp] theorem rewriteEntries_log (g : Segment) (l : List SampleEntry) (s : State) : (rewriteEntries g l s).log = s.log := by rw [rewriteEntries_frame]
@[simp] theorem rewriteEntries_test (g : Segment) (l : List SampleEntry) (s : State) : (rewriteEntries g l s).test = s.test := by rw [rewriteEntries_frame]
@[simp] theorem rewriteEntries_cmdFifo (g : Segment) (l : List SampleEntry) (s : State) : (rewriteEntries g l s).cmdFifo = s.cmdFifo := by rw [rewriteEntries_frame]
@[simp] theorem rewriteEntries_pending (g : Segment) (l : List SampleEntry) (s : State) : (rewriteEntries g l s).pending = s.pending := by rw [rewriteEntries_frame]

theorem segmentOver_frame (s : State) :
    segmentOver s = { s with txD := (segmentOver s).txD, forward := (segmentOver s).forward } := rfl

@[simp] theorem segmentOver_nodeAddr (s : State) : (segmentOver s).nodeAddr = s.nodeAddr := by rw [segmentOver_frame]
@[simp] theorem segmentOver_tripHigh (s : State) : (segmentOver s).tripHigh = s.tripHigh := by rw [segmentOver_frame]
@[simp] theorem segmentOver_faultLow (s : State) : (segmentOver s).faultLow = s.faultLow := by rw [segmentOver_frame]
@[simp] theorem segmentOver_upU (s : State) : (segmentOver s).upU = s.upU := by rw [segmentOver_frame]
@[simp] theorem segmentOver_upD (s : State) : (segmentOver s).upD = s.upD := by rw [segmentOver_frame]
@[simp] theorem segmentOver_rxU (s : State) : (segmentOver s).rxU = s.rxU := by rw [segmentOver_frame]
@[simp] theorem segmentOver_rxD (s : State) : (segmentOver s).rxD = s.rxD := by rw [segmentOver_frame]
@[simp] theorem segmentOver_txU (s : State) : (segmentOver s).txU = s.txU := by rw [segmentOver_frame]
@[simp] theorem segmentOver_ret (s : State) : (segmentOver s).ret = s.ret := by rw [segmentOver_frame]
@[simp] theorem segmentOver_replies (s : State) : (segmentOver s).replies = s.replies := by rw [segmentOver_frame]
@[simp] theorem segmentOver_alertSlot (s : State) : (segmentOver s).alertSlot = s.alertSlot := by rw [segmentOver_frame]
@[simp] theorem segmentOver_slotOwed (s : State) : (segmentOver s).slotOwed = s.slotOwed := by rw [segmentOver_frame]
@[simp] theorem segmentOver_counters (s : State) : (segmentOver s).counters = s.counters := by rw [segmentOver_frame]
@[simp] theorem segmentOver_tables (s : State) : (segmentOver s).tables = s.tables := by rw [segmentOver_frame]
@[simp] theorem segmentOver_tracker (s : State) : (segmentOver s).tracker = s.tracker := by rw [segmentOver_frame]
@[simp] theorem segmentOver_repeats (s : State) : (segmentOver s).repeats = s.repeats := by rw [segmentOver_frame]
@[simp] theorem segmentOver_channels (s : State) : (segmentOver s).channels = s.channels := by rw [segmentOver_frame]
@[simp] theorem segmentOver_groups (s : State) : (segmentOver s).groups = s.groups := by rw [segmentOver_frame]
@[simp] theorem segmentOver_log (s : State) : (segmentOver s).log = s.log := by rw [segmentOver_frame]
@[simp] theorem segmentOver_test (s : State) : (segmentOver s).test = s.test := by rw [segmentOver_frame]
@[simp] theorem segmentOver_cmdFifo (s : State) : (segmentOver s).cmdFifo = s.cmdFifo := by rw [segmentOver_frame]
@[simp] theorem segmentOver_pending (s : State) : (segmentOver s).pending = s.pending := by rw [segmentOver_frame]

theorem markClosing_frame (s : State) :
    markClosing s = { s with txD := (markClosing s).txD, forward := (markClosing s).forward, slotOwed := (markClosing s).slotOwed } := rfl

@[simp] theorem markClosing_nodeAddr (s : State) : (markClosing s).nodeAddr = s.nodeAddr := by rw [markClosing_frame]
@[simp] theorem markClosing_tripHigh (s : State) : (markClosing s).tripHigh = s.tripHigh := by rw [markClosing_frame]
@[simp] theorem markClosing_faultLow (s : State) : (markClosing s).faultLow = s.faultLow := by rw [markClosing_frame]
@[simp] theorem markClosing_upU (s : State) : (markClosing s).upU = s.upU := by rw [markClosing_frame]
@[simp] theorem markClosing_upD (s : State) : (markClosing s).upD = s.upD := by rw [markClosing_frame]
@[simp] theorem markClosing_rxU (s : State) : (markClosing s).rxU = s.rxU := by rw [markClosing_frame]
@[simp] theorem markClosing_rxD (s : State) : (markClosing s).rxD = s.rxD := by rw [markClosing_frame]
@[simp] theorem markClosing_txU (s : State) : (markClosing s).txU = s.txU := by rw [markClosing_frame]
@[simp] theorem markClosing_ret (s : State) : (markClosing s).ret = s.ret := by rw [markClosing_frame]
@[simp] theorem markClosing_replies (s : State) : (markClosing s).replies = s.replies := by rw [markClosing_frame]
@[simp] theorem markClosing_alertSlot (s : State) : (markClosing s).alertSlot = s.alertSlot := by rw [markClosing_frame]
@[simp] theorem markClosing_counters (s : State) : (markClosing s).counters = s.counters := by rw [markClosing_frame]
@[simp] theorem markClosing_tables (s : State) : (markClosing s).tables = s.tables := by rw [markClosing_frame]
@[simp] theorem markClosing_tracker (s : State) : (markClosing s).tracker = s.tracker := by rw [markClosing_frame]
@[simp] theorem markClosing_repeats (s : State) : (markClosing s).repeats = s.repeats := by rw [markClosing_frame]
@[simp] theorem markClosing_channels (s : State) : (markClosing s).channels = s.channels := by rw [markClosing_frame]
@[simp] theorem markClosing_groups (s : State) : (markClosing s).groups = s.groups := by rw [markClosing_frame]
@[simp] theorem markClosing_log (s : State) : (markClosing s).log = s.log := by rw [markClosing_frame]
@[simp] theorem markClosing_test (s : State) : (markClosing s).test = s.test := by rw [markClosing_frame]
@[simp] theorem markClosing_cmdFifo (s : State) : (markClosing s).cmdFifo = s.cmdFifo := by rw [markClosing_frame]
@[simp] theorem markClosing_pending (s : State) : (markClosing s).pending = s.pending := by rw [markClosing_frame]

theorem fillStage_frame (k : CloseKind) (n : CycleNo) (s : State) :
    fillStage k n s = { s with txD := (fillStage k n s).txD, forward := (fillStage k n s).forward, slotOwed := (fillStage k n s).slotOwed, counters := (fillStage k n s).counters } := by
  unfold fillStage nameEnding
  dsimp only
  split
  · cases k <;> rfl
  · split
    · cases k <;> rfl
    · rfl

@[simp] theorem fillStage_nodeAddr (k : CloseKind) (n : CycleNo) (s : State) : (fillStage k n s).nodeAddr = s.nodeAddr := by rw [fillStage_frame]
@[simp] theorem fillStage_tripHigh (k : CloseKind) (n : CycleNo) (s : State) : (fillStage k n s).tripHigh = s.tripHigh := by rw [fillStage_frame]
@[simp] theorem fillStage_faultLow (k : CloseKind) (n : CycleNo) (s : State) : (fillStage k n s).faultLow = s.faultLow := by rw [fillStage_frame]
@[simp] theorem fillStage_upU (k : CloseKind) (n : CycleNo) (s : State) : (fillStage k n s).upU = s.upU := by rw [fillStage_frame]
@[simp] theorem fillStage_upD (k : CloseKind) (n : CycleNo) (s : State) : (fillStage k n s).upD = s.upD := by rw [fillStage_frame]
@[simp] theorem fillStage_rxU (k : CloseKind) (n : CycleNo) (s : State) : (fillStage k n s).rxU = s.rxU := by rw [fillStage_frame]
@[simp] theorem fillStage_rxD (k : CloseKind) (n : CycleNo) (s : State) : (fillStage k n s).rxD = s.rxD := by rw [fillStage_frame]
@[simp] theorem fillStage_txU (k : CloseKind) (n : CycleNo) (s : State) : (fillStage k n s).txU = s.txU := by rw [fillStage_frame]
@[simp] theorem fillStage_ret (k : CloseKind) (n : CycleNo) (s : State) : (fillStage k n s).ret = s.ret := by rw [fillStage_frame]
@[simp] theorem fillStage_replies (k : CloseKind) (n : CycleNo) (s : State) : (fillStage k n s).replies = s.replies := by rw [fillStage_frame]
@[simp] theorem fillStage_alertSlot (k : CloseKind) (n : CycleNo) (s : State) : (fillStage k n s).alertSlot = s.alertSlot := by rw [fillStage_frame]
@[simp] theorem fillStage_tables (k : CloseKind) (n : CycleNo) (s : State) : (fillStage k n s).tables = s.tables := by rw [fillStage_frame]
@[simp] theorem fillStage_tracker (k : CloseKind) (n : CycleNo) (s : State) : (fillStage k n s).tracker = s.tracker := by rw [fillStage_frame]
@[simp] theorem fillStage_repeats (k : CloseKind) (n : CycleNo) (s : State) : (fillStage k n s).repeats = s.repeats := by rw [fillStage_frame]
@[simp] theorem fillStage_channels (k : CloseKind) (n : CycleNo) (s : State) : (fillStage k n s).channels = s.channels := by rw [fillStage_frame]
@[simp] theorem fillStage_groups (k : CloseKind) (n : CycleNo) (s : State) : (fillStage k n s).groups = s.groups := by rw [fillStage_frame]
@[simp] theorem fillStage_log (k : CloseKind) (n : CycleNo) (s : State) : (fillStage k n s).log = s.log := by rw [fillStage_frame]
@[simp] theorem fillStage_test (k : CloseKind) (n : CycleNo) (s : State) : (fillStage k n s).test = s.test := by rw [fillStage_frame]
@[simp] theorem fillStage_cmdFifo (k : CloseKind) (n : CycleNo) (s : State) : (fillStage k n s).cmdFifo = s.cmdFifo := by rw [fillStage_frame]
@[simp] theorem fillStage_pending (k : CloseKind) (n : CycleNo) (s : State) : (fillStage k n s).pending = s.pending := by rw [fillStage_frame]

theorem submitIncomplete_frame (k : CloseKind) (s : State) :
    submitIncomplete k s = { s with alertSlot := (submitIncomplete k s).alertSlot, log := (submitIncomplete k s).log } := by cases k <;> rfl

@[simp] theorem submitIncomplete_nodeAddr (k : CloseKind) (s : State) : (submitIncomplete k s).nodeAddr = s.nodeAddr := by rw [submitIncomplete_frame]
@[simp] theorem submitIncomplete_tripHigh (k : CloseKind) (s : State) : (submitIncomplete k s).tripHigh = s.tripHigh := by rw [submitIncomplete_frame]
@[simp] theorem submitIncomplete_faultLow (k : CloseKind) (s : State) : (submitIncomplete k s).faultLow = s.faultLow := by rw [submitIncomplete_frame]
@[simp] theorem submitIncomplete_upU (k : CloseKind) (s : State) : (submitIncomplete k s).upU = s.upU := by rw [submitIncomplete_frame]
@[simp] theorem submitIncomplete_upD (k : CloseKind) (s : State) : (submitIncomplete k s).upD = s.upD := by rw [submitIncomplete_frame]
@[simp] theorem submitIncomplete_rxU (k : CloseKind) (s : State) : (submitIncomplete k s).rxU = s.rxU := by rw [submitIncomplete_frame]
@[simp] theorem submitIncomplete_rxD (k : CloseKind) (s : State) : (submitIncomplete k s).rxD = s.rxD := by rw [submitIncomplete_frame]
@[simp] theorem submitIncomplete_txD (k : CloseKind) (s : State) : (submitIncomplete k s).txD = s.txD := by rw [submitIncomplete_frame]
@[simp] theorem submitIncomplete_txU (k : CloseKind) (s : State) : (submitIncomplete k s).txU = s.txU := by rw [submitIncomplete_frame]
@[simp] theorem submitIncomplete_forward (k : CloseKind) (s : State) : (submitIncomplete k s).forward = s.forward := by rw [submitIncomplete_frame]
@[simp] theorem submitIncomplete_ret (k : CloseKind) (s : State) : (submitIncomplete k s).ret = s.ret := by rw [submitIncomplete_frame]
@[simp] theorem submitIncomplete_replies (k : CloseKind) (s : State) : (submitIncomplete k s).replies = s.replies := by rw [submitIncomplete_frame]
@[simp] theorem submitIncomplete_slotOwed (k : CloseKind) (s : State) : (submitIncomplete k s).slotOwed = s.slotOwed := by rw [submitIncomplete_frame]
@[simp] theorem submitIncomplete_counters (k : CloseKind) (s : State) : (submitIncomplete k s).counters = s.counters := by rw [submitIncomplete_frame]
@[simp] theorem submitIncomplete_tables (k : CloseKind) (s : State) : (submitIncomplete k s).tables = s.tables := by rw [submitIncomplete_frame]
@[simp] theorem submitIncomplete_tracker (k : CloseKind) (s : State) : (submitIncomplete k s).tracker = s.tracker := by rw [submitIncomplete_frame]
@[simp] theorem submitIncomplete_repeats (k : CloseKind) (s : State) : (submitIncomplete k s).repeats = s.repeats := by rw [submitIncomplete_frame]
@[simp] theorem submitIncomplete_channels (k : CloseKind) (s : State) : (submitIncomplete k s).channels = s.channels := by rw [submitIncomplete_frame]
@[simp] theorem submitIncomplete_groups (k : CloseKind) (s : State) : (submitIncomplete k s).groups = s.groups := by rw [submitIncomplete_frame]
@[simp] theorem submitIncomplete_test (k : CloseKind) (s : State) : (submitIncomplete k s).test = s.test := by rw [submitIncomplete_frame]
@[simp] theorem submitIncomplete_cmdFifo (k : CloseKind) (s : State) : (submitIncomplete k s).cmdFifo = s.cmdFifo := by rw [submitIncomplete_frame]
@[simp] theorem submitIncomplete_pending (k : CloseKind) (s : State) : (submitIncomplete k s).pending = s.pending := by rw [submitIncomplete_frame]

@[simp] theorem closeCycle_nodeAddr (k : CloseKind) (s : State) : (closeCycle k s).nodeAddr = s.nodeAddr := by simp [closeCycle]
@[simp] theorem closeCycle_tripHigh (k : CloseKind) (s : State) : (closeCycle k s).tripHigh = s.tripHigh := by simp [closeCycle]
@[simp] theorem closeCycle_upU (k : CloseKind) (s : State) : (closeCycle k s).upU = s.upU := by simp [closeCycle]
@[simp] theorem closeCycle_upD (k : CloseKind) (s : State) : (closeCycle k s).upD = s.upD := by simp [closeCycle]
@[simp] theorem closeCycle_rxU (k : CloseKind) (s : State) : (closeCycle k s).rxU = s.rxU := by simp [closeCycle]
@[simp] theorem closeCycle_rxD (k : CloseKind) (s : State) : (closeCycle k s).rxD = s.rxD := by simp [closeCycle]
@[simp] theorem closeCycle_txU (k : CloseKind) (s : State) : (closeCycle k s).txU = s.txU := by simp [closeCycle]
@[simp] theorem closeCycle_ret (k : CloseKind) (s : State) : (closeCycle k s).ret = s.ret := by simp [closeCycle]
@[simp] theorem closeCycle_replies (k : CloseKind) (s : State) : (closeCycle k s).replies = s.replies := by simp [closeCycle]
@[simp] theorem closeCycle_tables (k : CloseKind) (s : State) : (closeCycle k s).tables = s.tables := by simp [closeCycle]
@[simp] theorem closeCycle_repeats (k : CloseKind) (s : State) : (closeCycle k s).repeats = s.repeats := by simp [closeCycle]
@[simp] theorem closeCycle_cmdFifo (k : CloseKind) (s : State) : (closeCycle k s).cmdFifo = s.cmdFifo := by simp [closeCycle]
@[simp] theorem closeCycle_pending (k : CloseKind) (s : State) : (closeCycle k s).pending = s.pending := by simp [closeCycle]

theorem linkLoss_frame (s : State) :
    linkLoss s = { s with faultLow := (linkLoss s).faultLow, alertSlot := (linkLoss s).alertSlot, tracker := (linkLoss s).tracker, groups := (linkLoss s).groups, log := (linkLoss s).log } := by
  unfold linkLoss
  dsimp only
  rw [tripGroups_frame]; rfl

@[simp] theorem linkLoss_nodeAddr (s : State) : (linkLoss s).nodeAddr = s.nodeAddr := by rw [linkLoss_frame]
@[simp] theorem linkLoss_tripHigh (s : State) : (linkLoss s).tripHigh = s.tripHigh := by rw [linkLoss_frame]
@[simp] theorem linkLoss_upU (s : State) : (linkLoss s).upU = s.upU := by rw [linkLoss_frame]
@[simp] theorem linkLoss_upD (s : State) : (linkLoss s).upD = s.upD := by rw [linkLoss_frame]
@[simp] theorem linkLoss_rxU (s : State) : (linkLoss s).rxU = s.rxU := by rw [linkLoss_frame]
@[simp] theorem linkLoss_rxD (s : State) : (linkLoss s).rxD = s.rxD := by rw [linkLoss_frame]
@[simp] theorem linkLoss_txD (s : State) : (linkLoss s).txD = s.txD := by rw [linkLoss_frame]
@[simp] theorem linkLoss_txU (s : State) : (linkLoss s).txU = s.txU := by rw [linkLoss_frame]
@[simp] theorem linkLoss_forward (s : State) : (linkLoss s).forward = s.forward := by rw [linkLoss_frame]
@[simp] theorem linkLoss_ret (s : State) : (linkLoss s).ret = s.ret := by rw [linkLoss_frame]
@[simp] theorem linkLoss_replies (s : State) : (linkLoss s).replies = s.replies := by rw [linkLoss_frame]
@[simp] theorem linkLoss_slotOwed (s : State) : (linkLoss s).slotOwed = s.slotOwed := by rw [linkLoss_frame]
@[simp] theorem linkLoss_counters (s : State) : (linkLoss s).counters = s.counters := by rw [linkLoss_frame]
@[simp] theorem linkLoss_tables (s : State) : (linkLoss s).tables = s.tables := by rw [linkLoss_frame]
@[simp] theorem linkLoss_repeats (s : State) : (linkLoss s).repeats = s.repeats := by rw [linkLoss_frame]
@[simp] theorem linkLoss_channels (s : State) : (linkLoss s).channels = s.channels := by rw [linkLoss_frame]
@[simp] theorem linkLoss_test (s : State) : (linkLoss s).test = s.test := by rw [linkLoss_frame]
@[simp] theorem linkLoss_cmdFifo (s : State) : (linkLoss s).cmdFifo = s.cmdFifo := by rw [linkLoss_frame]
@[simp] theorem linkLoss_pending (s : State) : (linkLoss s).pending = s.pending := by rw [linkLoss_frame]

theorem lostCycle_frame (s : State) :
    lostCycle s = { s with faultLow := (lostCycle s).faultLow, alertSlot := (lostCycle s).alertSlot, tracker := (lostCycle s).tracker, channels := (lostCycle s).channels, groups := (lostCycle s).groups, log := (lostCycle s).log } := by
  unfold lostCycle
  dsimp only
  split
  · rw [linkLoss_frame, staleTrigger_frame]
  · rw [startTimer_frame, staleTrigger_frame]

@[simp] theorem lostCycle_nodeAddr (s : State) : (lostCycle s).nodeAddr = s.nodeAddr := by rw [lostCycle_frame]
@[simp] theorem lostCycle_tripHigh (s : State) : (lostCycle s).tripHigh = s.tripHigh := by rw [lostCycle_frame]
@[simp] theorem lostCycle_upU (s : State) : (lostCycle s).upU = s.upU := by rw [lostCycle_frame]
@[simp] theorem lostCycle_upD (s : State) : (lostCycle s).upD = s.upD := by rw [lostCycle_frame]
@[simp] theorem lostCycle_rxU (s : State) : (lostCycle s).rxU = s.rxU := by rw [lostCycle_frame]
@[simp] theorem lostCycle_rxD (s : State) : (lostCycle s).rxD = s.rxD := by rw [lostCycle_frame]
@[simp] theorem lostCycle_txD (s : State) : (lostCycle s).txD = s.txD := by rw [lostCycle_frame]
@[simp] theorem lostCycle_txU (s : State) : (lostCycle s).txU = s.txU := by rw [lostCycle_frame]
@[simp] theorem lostCycle_forward (s : State) : (lostCycle s).forward = s.forward := by rw [lostCycle_frame]
@[simp] theorem lostCycle_ret (s : State) : (lostCycle s).ret = s.ret := by rw [lostCycle_frame]
@[simp] theorem lostCycle_replies (s : State) : (lostCycle s).replies = s.replies := by rw [lostCycle_frame]
@[simp] theorem lostCycle_slotOwed (s : State) : (lostCycle s).slotOwed = s.slotOwed := by rw [lostCycle_frame]
@[simp] theorem lostCycle_counters (s : State) : (lostCycle s).counters = s.counters := by rw [lostCycle_frame]
@[simp] theorem lostCycle_tables (s : State) : (lostCycle s).tables = s.tables := by rw [lostCycle_frame]
@[simp] theorem lostCycle_repeats (s : State) : (lostCycle s).repeats = s.repeats := by rw [lostCycle_frame]
@[simp] theorem lostCycle_test (s : State) : (lostCycle s).test = s.test := by rw [lostCycle_frame]
@[simp] theorem lostCycle_cmdFifo (s : State) : (lostCycle s).cmdFifo = s.cmdFifo := by rw [lostCycle_frame]
@[simp] theorem lostCycle_pending (s : State) : (lostCycle s).pending = s.pending := by rw [lostCycle_frame]

theorem tripLineFall_frame (s : State) :
    tripLineFall s = { s with tripHigh := (tripLineFall s).tripHigh, faultLow := (tripLineFall s).faultLow, alertSlot := (tripLineFall s).alertSlot, groups := (tripLineFall s).groups, log := (tripLineFall s).log } := by
  unfold tripLineFall
  split
  · rw [tripGroups_frame]
  · rfl

@[simp] theorem tripLineFall_nodeAddr (s : State) : (tripLineFall s).nodeAddr = s.nodeAddr := by rw [tripLineFall_frame]
@[simp] theorem tripLineFall_upU (s : State) : (tripLineFall s).upU = s.upU := by rw [tripLineFall_frame]
@[simp] theorem tripLineFall_upD (s : State) : (tripLineFall s).upD = s.upD := by rw [tripLineFall_frame]
@[simp] theorem tripLineFall_rxU (s : State) : (tripLineFall s).rxU = s.rxU := by rw [tripLineFall_frame]
@[simp] theorem tripLineFall_rxD (s : State) : (tripLineFall s).rxD = s.rxD := by rw [tripLineFall_frame]
@[simp] theorem tripLineFall_txD (s : State) : (tripLineFall s).txD = s.txD := by rw [tripLineFall_frame]
@[simp] theorem tripLineFall_txU (s : State) : (tripLineFall s).txU = s.txU := by rw [tripLineFall_frame]
@[simp] theorem tripLineFall_forward (s : State) : (tripLineFall s).forward = s.forward := by rw [tripLineFall_frame]
@[simp] theorem tripLineFall_ret (s : State) : (tripLineFall s).ret = s.ret := by rw [tripLineFall_frame]
@[simp] theorem tripLineFall_replies (s : State) : (tripLineFall s).replies = s.replies := by rw [tripLineFall_frame]
@[simp] theorem tripLineFall_slotOwed (s : State) : (tripLineFall s).slotOwed = s.slotOwed := by rw [tripLineFall_frame]
@[simp] theorem tripLineFall_counters (s : State) : (tripLineFall s).counters = s.counters := by rw [tripLineFall_frame]
@[simp] theorem tripLineFall_tables (s : State) : (tripLineFall s).tables = s.tables := by rw [tripLineFall_frame]
@[simp] theorem tripLineFall_tracker (s : State) : (tripLineFall s).tracker = s.tracker := by rw [tripLineFall_frame]
@[simp] theorem tripLineFall_repeats (s : State) : (tripLineFall s).repeats = s.repeats := by rw [tripLineFall_frame]
@[simp] theorem tripLineFall_channels (s : State) : (tripLineFall s).channels = s.channels := by rw [tripLineFall_frame]
@[simp] theorem tripLineFall_test (s : State) : (tripLineFall s).test = s.test := by rw [tripLineFall_frame]
@[simp] theorem tripLineFall_cmdFifo (s : State) : (tripLineFall s).cmdFifo = s.cmdFifo := by rw [tripLineFall_frame]
@[simp] theorem tripLineFall_pending (s : State) : (tripLineFall s).pending = s.pending := by rw [tripLineFall_frame]

/-- A choice of the Arbiter takes one frame from a queue of port D and may clear slot owed. -/
theorem arbiterChoice_frame {s s' : State} {f : OnLine} (h : arbiterChoice s = some (f, s')) :
    s' = { s with forward := s'.forward, replies := s'.replies, alertSlot := s'.alertSlot, slotOwed := s'.slotOwed } := by
  unfold arbiterChoice takeOutbound takeForward at h
  split at h
  · split at h
    · cases h; rfl
    · split at h <;> cases h
      rfl
  · split at h
    · split at h <;> cases h
      rfl
    · cases h

theorem arbitrate_frame (k : Nat) (s : State) :
    arbitrate k s = { s with txD := (arbitrate k s).txD, forward := (arbitrate k s).forward, replies := (arbitrate k s).replies, alertSlot := (arbitrate k s).alertSlot, slotOwed := (arbitrate k s).slotOwed } := by
  induction k generalizing s with
  | zero => rfl
  | succ k ih =>
    rw [arbitrate]
    split
    · rfl
    · split
      · rfl
      · rename_i f s' h
        have hs := arbiterChoice_frame h
        split
        · rw [hs]
        · rw [ih, hs]

@[simp] theorem arbitrate_nodeAddr (k : Nat) (s : State) : (arbitrate k s).nodeAddr = s.nodeAddr := by rw [arbitrate_frame]
@[simp] theorem arbitrate_tripHigh (k : Nat) (s : State) : (arbitrate k s).tripHigh = s.tripHigh := by rw [arbitrate_frame]
@[simp] theorem arbitrate_faultLow (k : Nat) (s : State) : (arbitrate k s).faultLow = s.faultLow := by rw [arbitrate_frame]
@[simp] theorem arbitrate_upU (k : Nat) (s : State) : (arbitrate k s).upU = s.upU := by rw [arbitrate_frame]
@[simp] theorem arbitrate_upD (k : Nat) (s : State) : (arbitrate k s).upD = s.upD := by rw [arbitrate_frame]
@[simp] theorem arbitrate_rxU (k : Nat) (s : State) : (arbitrate k s).rxU = s.rxU := by rw [arbitrate_frame]
@[simp] theorem arbitrate_rxD (k : Nat) (s : State) : (arbitrate k s).rxD = s.rxD := by rw [arbitrate_frame]
@[simp] theorem arbitrate_txU (k : Nat) (s : State) : (arbitrate k s).txU = s.txU := by rw [arbitrate_frame]
@[simp] theorem arbitrate_ret (k : Nat) (s : State) : (arbitrate k s).ret = s.ret := by rw [arbitrate_frame]
@[simp] theorem arbitrate_counters (k : Nat) (s : State) : (arbitrate k s).counters = s.counters := by rw [arbitrate_frame]
@[simp] theorem arbitrate_tables (k : Nat) (s : State) : (arbitrate k s).tables = s.tables := by rw [arbitrate_frame]
@[simp] theorem arbitrate_tracker (k : Nat) (s : State) : (arbitrate k s).tracker = s.tracker := by rw [arbitrate_frame]
@[simp] theorem arbitrate_repeats (k : Nat) (s : State) : (arbitrate k s).repeats = s.repeats := by rw [arbitrate_frame]
@[simp] theorem arbitrate_channels (k : Nat) (s : State) : (arbitrate k s).channels = s.channels := by rw [arbitrate_frame]
@[simp] theorem arbitrate_groups (k : Nat) (s : State) : (arbitrate k s).groups = s.groups := by rw [arbitrate_frame]
@[simp] theorem arbitrate_log (k : Nat) (s : State) : (arbitrate k s).log = s.log := by rw [arbitrate_frame]
@[simp] theorem arbitrate_test (k : Nat) (s : State) : (arbitrate k s).test = s.test := by rw [arbitrate_frame]
@[simp] theorem arbitrate_cmdFifo (k : Nat) (s : State) : (arbitrate k s).cmdFifo = s.cmdFifo := by rw [arbitrate_frame]
@[simp] theorem arbitrate_pending (k : Nat) (s : State) : (arbitrate k s).pending = s.pending := by rw [arbitrate_frame]

theorem returnSend_frame (s : State) :
    returnSend s = { s with txU := (returnSend s).txU, ret := (returnSend s).ret } := by
  unfold returnSend
  split
  · split <;> rfl
  · rfl

@[simp] theorem returnSend_nodeAddr (s : State) : (returnSend s).nodeAddr = s.nodeAddr := by rw [returnSend_frame]
@[simp] theorem returnSend_tripHigh (s : State) : (returnSend s).tripHigh = s.tripHigh := by rw [returnSend_frame]
@[simp] theorem returnSend_faultLow (s : State) : (returnSend s).faultLow = s.faultLow := by rw [returnSend_frame]
@[simp] theorem returnSend_upU (s : State) : (returnSend s).upU = s.upU := by rw [returnSend_frame]
@[simp] theorem returnSend_upD (s : State) : (returnSend s).upD = s.upD := by rw [returnSend_frame]
@[simp] theorem returnSend_rxU (s : State) : (returnSend s).rxU = s.rxU := by rw [returnSend_frame]
@[simp] theorem returnSend_rxD (s : State) : (returnSend s).rxD = s.rxD := by rw [returnSend_frame]
@[simp] theorem returnSend_txD (s : State) : (returnSend s).txD = s.txD := by rw [returnSend_frame]
@[simp] theorem returnSend_forward (s : State) : (returnSend s).forward = s.forward := by rw [returnSend_frame]
@[simp] theorem returnSend_replies (s : State) : (returnSend s).replies = s.replies := by rw [returnSend_frame]
@[simp] theorem returnSend_alertSlot (s : State) : (returnSend s).alertSlot = s.alertSlot := by rw [returnSend_frame]
@[simp] theorem returnSend_slotOwed (s : State) : (returnSend s).slotOwed = s.slotOwed := by rw [returnSend_frame]
@[simp] theorem returnSend_counters (s : State) : (returnSend s).counters = s.counters := by rw [returnSend_frame]
@[simp] theorem returnSend_tables (s : State) : (returnSend s).tables = s.tables := by rw [returnSend_frame]
@[simp] theorem returnSend_tracker (s : State) : (returnSend s).tracker = s.tracker := by rw [returnSend_frame]
@[simp] theorem returnSend_repeats (s : State) : (returnSend s).repeats = s.repeats := by rw [returnSend_frame]
@[simp] theorem returnSend_channels (s : State) : (returnSend s).channels = s.channels := by rw [returnSend_frame]
@[simp] theorem returnSend_groups (s : State) : (returnSend s).groups = s.groups := by rw [returnSend_frame]
@[simp] theorem returnSend_log (s : State) : (returnSend s).log = s.log := by rw [returnSend_frame]
@[simp] theorem returnSend_test (s : State) : (returnSend s).test = s.test := by rw [returnSend_frame]
@[simp] theorem returnSend_cmdFifo (s : State) : (returnSend s).cmdFifo = s.cmdFifo := by rw [returnSend_frame]
@[simp] theorem returnSend_pending (s : State) : (returnSend s).pending = s.pending := by rw [returnSend_frame]

theorem settle_frame (s : State) :
    settle s = { s with txD := (settle s).txD, txU := (settle s).txU, forward := (settle s).forward, ret := (settle s).ret, replies := (settle s).replies, alertSlot := (settle s).alertSlot, slotOwed := (settle s).slotOwed } := by
  unfold settle
  rw [returnSend_frame, arbitrate_frame]

@[simp] theorem settle_nodeAddr (s : State) : (settle s).nodeAddr = s.nodeAddr := by rw [settle_frame]
@[simp] theorem settle_tripHigh (s : State) : (settle s).tripHigh = s.tripHigh := by rw [settle_frame]
@[simp] theorem settle_faultLow (s : State) : (settle s).faultLow = s.faultLow := by rw [settle_frame]
@[simp] theorem settle_upU (s : State) : (settle s).upU = s.upU := by rw [settle_frame]
@[simp] theorem settle_upD (s : State) : (settle s).upD = s.upD := by rw [settle_frame]
@[simp] theorem settle_rxU (s : State) : (settle s).rxU = s.rxU := by rw [settle_frame]
@[simp] theorem settle_rxD (s : State) : (settle s).rxD = s.rxD := by rw [settle_frame]
@[simp] theorem settle_counters (s : State) : (settle s).counters = s.counters := by rw [settle_frame]
@[simp] theorem settle_tables (s : State) : (settle s).tables = s.tables := by rw [settle_frame]
@[simp] theorem settle_tracker (s : State) : (settle s).tracker = s.tracker := by rw [settle_frame]
@[simp] theorem settle_repeats (s : State) : (settle s).repeats = s.repeats := by rw [settle_frame]
@[simp] theorem settle_channels (s : State) : (settle s).channels = s.channels := by rw [settle_frame]
@[simp] theorem settle_groups (s : State) : (settle s).groups = s.groups := by rw [settle_frame]
@[simp] theorem settle_log (s : State) : (settle s).log = s.log := by rw [settle_frame]
@[simp] theorem settle_test (s : State) : (settle s).test = s.test := by rw [settle_frame]
@[simp] theorem settle_cmdFifo (s : State) : (settle s).cmdFifo = s.cmdFifo := by rw [settle_frame]
@[simp] theorem settle_pending (s : State) : (settle s).pending = s.pending := by rw [settle_frame]

end Sys2Proof.Machine
end

