-- ==== Sys2Proof/Laws/Ops.lean ====
section
/-! SUPPORT. What each shared operation can do, said once: lemmas that later proofs cite instead of unfolding the operation. -/

namespace Sys2Proof.Machine

/-! ### Banks (R3) -/

@[simp] theorem BankLetter.other_other (l : BankLetter) : l.other.other = l := by cases l <;> rfl

@[simp] theorem TableStore.setStaging_active (t : TableStore) (b : Bank) : (t.setStaging b).active = t.active := by
  unfold TableStore.setStaging; split <;> simp_all

@[simp] theorem TableStore.setStaging_stagingBank (t : TableStore) (b : Bank) : (t.setStaging b).stagingBank = b := by
  unfold TableStore.stagingBank; cases h : t.active <;> simp [TableStore.setStaging, TableStore.bank, BankLetter.other, h]

@[simp] theorem TableStore.setStaging_activeBank (t : TableStore) (b : Bank) : (t.setStaging b).activeBank = t.activeBank := by
  unfold TableStore.activeBank; cases h : t.active <;> simp [TableStore.setStaging, TableStore.bank, h]

/-- Nothing but a bank's content changes with the staging bank's. -/
theorem TableStore.setStaging_rest (t : TableStore) (b : Bank) :
    (t.setStaging b).marks = t.marks ∧ (t.setStaging b).commit = t.commit ∧ (t.setStaging b).modeChange = t.modeChange ∧
      (t.setStaging b).copyInFlight = t.copyInFlight ∧ (t.setStaging b).deviceMode = t.deviceMode := by
  unfold TableStore.setStaging; split <;> exact ⟨rfl, rfl, rfl, rfl, rfl⟩

/-- A swap exchanges the roles of the banks (R131). -/
theorem TableStore.swapped_banks (t : TableStore) :
    t.swapped.activeBank = t.stagingBank ∧ t.swapped.stagingBank = t.activeBank := by
  cases h : t.active <;> simp [TableStore.swapped, TableStore.activeBank, TableStore.stagingBank, TableStore.bank, h,
    BankLetter.other]

/-! ### Reading back a write -/

theorem State.setChannel_channel (s : State) (c d : Chan) (r : ChannelRecord) :
    (s.setChannel c r).channel d = if c = d then r else s.channel d := by
  simp only [State.setChannel, State.channel, Fin.getElem_fin, Vector.getElem_set, Fin.ext_iff]

theorem State.setGroup_group (s : State) (g h : Grp) (r : GroupRecord) :
    (s.setGroup g r).group h = if g = h then r else s.group h := by
  simp only [State.setGroup, State.group, Fin.getElem_fin, Vector.getElem_set, Fin.ext_iff]

theorem resetAllRecords_channel (s : State) (c : Chan) : (resetAllRecords s).channel c = s.freshRecord c := by
  simp [resetAllRecords, State.channel]

theorem resetRecords_channel (m : Vector Bool 96) (s : State) (c : Chan) :
    (resetRecords m s).channel c = if m[c] = true then s.freshRecord c else s.channel c := by
  simp [resetRecords, State.channel]

/-! ### What the records are read through: two states that agree on a field agree on what is read from it -/

theorem State.entry_congr {s t : State} (h : t.tables = s.tables) (c : Chan) : t.entry c = s.entry c := by
  simp only [State.entry, h]

theorem State.groupEntry_congr {s t : State} (h : t.tables = s.tables) (g : Grp) : t.groupEntry g = s.groupEntry g := by
  simp only [State.groupEntry, h]

theorem State.params_congr {s t : State} (h : t.tables = s.tables) : t.params = s.params := by
  simp only [State.params, h]

theorem State.checked_congr {s t : State} (h : t.tables = s.tables) (c : Chan) : t.checked c = s.checked c := by
  simp only [State.checked, h, State.entry_congr h]

theorem State.channel_congr {s t : State} (h : t.channels = s.channels) (c : Chan) : t.channel c = s.channel c := by
  simp only [State.channel, h]

theorem State.group_congr {s t : State} (h : t.groups = s.groups) (g : Grp) : t.group g = s.group g := by
  simp only [State.group, h]

theorem State.stamp_congr {s t : State} (h : t.tracker = s.tracker) : t.stamp = s.stamp := by
  simp only [State.stamp, h]

theorem State.stamp_nosync {s : State} (h : s.tracker.state = .nosync) : s.stamp = none := by simp [State.stamp, h]

theorem State.stamp_synced {s : State} (h : s.tracker.state ≠ .nosync) : s.stamp = some s.tracker.lastCycle := by
  simp [State.stamp, h]

/-- The readiness of a group is read from the tables, the runtime records, the TRIP_N level, the tracker's state and the group's own
record alone (R112). -/
theorem failedCondition_congr {s t : State} {g : Grp} (h₁ : t.tables = s.tables) (h₂ : t.channels = s.channels)
    (h₃ : t.tripHigh = s.tripHigh) (h₄ : t.tracker.state = s.tracker.state) (h₅ : t.group g = s.group g) :
    failedCondition t g = failedCondition s g := by
  have hg : ∀ c, t.guardMember g c = s.guardMember g c := fun c => by
    simp only [State.guardMember, State.entry_congr h₁]
  simp only [failedCondition, hg, State.channel_congr h₂, State.groupEntry_congr h₁, h₃, h₄, h₅]

/-! ### Submissions (R144, R145) -/

/-- An accepted record stands at the back with next_sequence (R144). -/
theorem submit_log_below {s : State} (h : s.log.records.length < 64) (n : Option CycleNo) (b : RecordBody) :
    (submit n b s).log = ⟨s.log.records ++ [⟨s.log.nextSequence, n, b⟩], s.log.nextSequence + 1, s.log.lost⟩ := by
  simp [submit, FaultLog.submit, h]

/-- A record submitted to a full log is counted (R145). -/
theorem submit_log_full {s : State} (h : 64 ≤ s.log.records.length) (n : Option CycleNo) (b : RecordBody) :
    (submit n b s).log = { s.log with lost := saturate s.log.lost 1 } := by
  simp [submit, FaultLog.submit, Nat.not_lt.mpr h]

/-- No submission touches the records already held (R144, R145). -/
theorem submit_keeps (n : Option CycleNo) (b : RecordBody) (s : State) : KeepsRecords s.log (submit n b s).log := by
  unfold KeepsRecords
  by_cases h : s.log.records.length < 64
  · simp [submit_log_below h]
  · simp [submit_log_full (Nat.not_lt.mp h)]

theorem KeepsRecords.trans {a b c : FaultLog} (h : KeepsRecords a b) (h' : KeepsRecords b c) : KeepsRecords a c := by
  have hl : a.records.length ≤ b.records.length := by
    have := congrArg List.length h; simp at this; omega
  unfold KeepsRecords at *
  have ht : c.records.take a.records.length = (c.records.take b.records.length).take a.records.length := by
    rw [List.take_take, Nat.min_eq_left hl]
  rw [ht, h', h]

/-- With room for one record, a submission adds just that record. -/
theorem newRecords_submit {s : State} (h : s.log.records.length < 64) (n : Option CycleNo) (b : RecordBody) :
    newRecords s.log (submit n b s).log = [(n, b)] := by
  simp [newRecords, submit_log_below h]

/-- The new records of two stretches follow each other. -/
theorem newRecords_append {a b c : FaultLog} (h : KeepsRecords a b) (h' : KeepsRecords b c) :
    newRecords a c = newRecords a b ++ newRecords b c := by
  unfold KeepsRecords newRecords at *
  have hl : a.records.length ≤ b.records.length := by
    have := congrArg List.length h; simp at this; omega
  rw [← List.map_append]
  congr 1
  conv_lhs => rw [← List.take_append_drop b.records.length c.records, h']
  rw [List.drop_append_of_le_length hl]

/-! ### Trip requests (R104 to R106) -/

theorem tripRequest_bypass {s : State} (h : s.tables.deviceMode = .bypass) (q : TripRequest) : tripRequest q s = s := by
  simp [tripRequest, h]

/-- In ACTIVE a request changes its own group's record and no other (R104, R105). -/
theorem tripRequest_groups {s : State} (h : s.tables.deviceMode = .active) (q : TripRequest) :
    (tripRequest q s).groups = (s.setGroup q.group (afterRequest s q.group q.cause q.channel q.cycle)).groups := by
  cases hs : (s.group q.group).state <;> simp [tripRequest, h, hs, afterRequest, TripRequest.record]

theorem tripRequest_group {s : State} (h : s.tables.deviceMode = .active) (q : TripRequest) (g : Grp) :
    (tripRequest q s).group g = if q.group = g then afterRequest s g q.cause q.channel q.cycle else s.group g := by
  rw [State.group_congr (tripRequest_groups h q), State.setGroup_group]
  split <;> simp_all

/-- The TRIP record of a request to an ARMED group is the only record a request submits (R104, R105, R118). -/
theorem tripRequest_log (q : TripRequest) (s : State) :
    (tripRequest q s).log =
      if s.tables.deviceMode = .active ∧ (s.group q.group).state = .armed then
        (submit q.cycle (.trip q.group q.cause q.channel) s).log else s.log := by
  cases hm : s.tables.deviceMode
  · simp [tripRequest, hm]
  · cases hs : (s.group q.group).state <;> simp [tripRequest, hm, hs, submit]

theorem tripRequest_keeps (q : TripRequest) (s : State) : KeepsRecords s.log (tripRequest q s).log := by
  rw [tripRequest_log]
  split
  · exact submit_keeps ..
  · simp [KeepsRecords]

@[simp] theorem tripRequest_stamp (q : TripRequest) (s : State) : (tripRequest q s).stamp = s.stamp :=
  State.stamp_congr (by simp)

/-- What a run of requests does to each group: every one listed takes one request, the others stand (R104, R105). -/
theorem tripGroups_group {s : State} (h : s.tables.deviceMode = .active) (k : TripCause) (l : List Grp) (hl : l.Nodup)
    (g : Grp) : (tripGroups k l s).group g = if g ∈ l then afterRequest s g k none s.stamp else s.group g := by
  induction l generalizing s with
  | nil => simp [tripGroups]
  | cons a l ih =>
    obtain ⟨ha, hl⟩ := List.nodup_cons.mp hl
    rw [tripGroups, ih (by simpa using h) hl]
    by_cases hg : g ∈ l
    · have hne : a ≠ g := fun e => ha (e ▸ hg)
      simp only [hg, if_true, List.mem_cons, or_true, tripRequest_stamp]
      unfold afterRequest
      rw [tripRequest_group h, if_neg hne, State.groupEntry_congr (t := tripRequest _ s) (s := s) (by simp)]
    · simp only [hg, if_false, List.mem_cons, or_false]
      rw [tripRequest_group h]
      simp only [eq_comm]

theorem tripGroups_bypass {s : State} (h : s.tables.deviceMode = .bypass) (k : TripCause) (l : List Grp) :
    tripGroups k l s = s := by
  induction l with
  | nil => rfl
  | cons a l ih => rw [tripGroups, tripRequest_bypass h, ih]

theorem tripGroups_keeps (k : TripCause) (l : List Grp) (s : State) : KeepsRecords s.log (tripGroups k l s).log := by
  induction l generalizing s with
  | nil => simp [tripGroups, KeepsRecords]
  | cons a l ih => exact (tripRequest_keeps _ s).trans (ih _)

/-- The records of a run of requests, where the log has room for all: one TRIP record for each listed group that is ARMED (R104). -/
theorem tripGroups_newRecords {s : State} (h : s.tables.deviceMode = .active) (k : TripCause) (l : List Grp) (hl : l.Nodup)
    (hr : s.log.records.length + l.length ≤ 64) :
    newRecords s.log (tripGroups k l s).log =
      (l.filter (fun g => (s.group g).state == .armed)).map (fun g => (s.stamp, .trip g k none)) := by
  induction l generalizing s with
  | nil => simp [tripGroups, newRecords]
  | cons a l ih =>
    obtain ⟨ha, hl⟩ := List.nodup_cons.mp hl
    simp only [List.length_cons] at hr
    rw [tripGroups, newRecords_append (tripRequest_keeps _ s) (tripGroups_keeps ..)]
    have hlog := tripRequest_log ⟨a, k, none, s.stamp⟩ s
    have hlen : (tripRequest ⟨a, k, none, s.stamp⟩ s).log.records.length + l.length ≤ 64 := by
      rw [hlog]
      split
      · rw [submit_log_below (by omega)]; simp; omega
      · omega
    rw [ih (by simpa using h) hl hlen]
    have hsame : l.filter (fun g => ((tripRequest ⟨a, k, none, s.stamp⟩ s).group g).state == .armed) =
        l.filter (fun g => (s.group g).state == .armed) := by
      refine List.filter_congr fun g hg => ?_
      rw [tripRequest_group h, if_neg (fun e => ha (by subst e; exact hg))]
    rw [hsame, tripRequest_stamp, hlog]
    cases hs : (s.group a).state <;> simp [h, hs]
    · rw [newRecords_submit (by omega)]; rfl
    · simp [newRecords]

end Sys2Proof.Machine
end

