-- ==== Sys2Proof/Laws/Link.lean ====
section
/-! SUPPORT. The transmitters at the end of an act, and the taking of a command: what settle, the Arbiter and takeHead can do. -/

namespace Sys2Proof.Machine

/-! ### The Arbiter (R192) -/

/-- A frame on port D's line leaves the Arbiter nothing to choose (R192). -/
theorem arbitrate_busy {s : State} (h : s.txD.isSome) (k : Nat) : arbitrate k s = s := by
  cases k
  · rfl
  · rw [arbitrate, if_pos h]

/-- With no frame ready the line stays idle (R192). -/
theorem arbitrate_none {s : State} (h : arbiterChoice s = none) (k : Nat) : arbitrate k s = s := by
  cases k
  · rfl
  · rw [arbitrate, h]; split <;> rfl

/-- On a free line of a port that is UP, the one choice begins transmission (R192). -/
theorem arbitrate_up {s s' : State} {f : OnLine} (hu : s.upD = true) (ht : s.txD = none)
    (h : arbiterChoice s = some (f, s')) (k : Nat) : arbitrate (k + 1) s = { s' with txD := some f } := by
  rw [arbitrate, h]; simp [hu, ht]

theorem settle_busy {s : State} (h : LineBusy s) : settle s = returnSend s := by
  rw [settle, arbitrate_busy h.sending]

/-- A line that is busy stays busy through settle, and the forward queue as it is. -/
theorem settle_busy_frame {s : State} (h : LineBusy s) : settle s = { s with txU := (settle s).txU, ret := (settle s).ret } := by
  rw [settle_busy h, returnSend_frame]

theorem LineBusy.settle {s : State} (h : LineBusy s) : LineBusy (settle s) := by
  rw [settle_busy_frame h]; exact ⟨h.up, h.sending⟩

theorem LineBusy.of_eq {s t : State} (h : LineBusy s) (h₁ : t.upD = s.upD) (h₂ : t.txD = s.txD) : LineBusy t :=
  ⟨h₁ ▸ h.up, by rw [h₂]; exact h.sending⟩

theorem State.outbound_eq_false {s : State} : s.outbound = false ↔ s.alertSlot = none ∧ s.replies = [] := by
  cases h : s.alertSlot <;> simp [State.outbound, h]

/-- An Outbound Queue that is not empty gives one of its frames, which carries no ending mark, and slot owed is clear after (R192). -/
theorem takeOutbound_some {s : State} (h : s.outbound = true) :
    ∃ f replies slot, takeOutbound s = some (f, { s with replies := replies, alertSlot := slot, slotOwed := false }) ∧
      f.ending = false ∧
      replies.length + (if slot.isSome then 1 else 0) + 1 = s.replies.length + (if s.alertSlot.isSome then 1 else 0) := by
  cases ha : s.alertSlot with
  | some w => exact ⟨_, _, _, by simp only [takeOutbound, ha]; rfl, rfl, by simp⟩
  | none =>
    cases hr : s.replies with
    | nil => simp [State.outbound, ha, hr] at h
    | cons r rest => exact ⟨⟨.reply r, false, false⟩, rest, none, by simp [takeOutbound, ha, hr], rfl, by simp⟩

/-- While port D is DOWN every choice is discarded: with choices enough the Outbound Queue and the ready forward frames are gone, and
slot owed is left set where it was set more often than there were outbound frames to clear it (R192, R194). -/
theorem arbitrate_down {s : State} (hd : s.upD = false) (ht : s.txD = none) (k : Nat)
    (hk : s.forward.length + s.replies.length + (if s.alertSlot.isSome then 1 else 0) < k) :
    arbitrate k s =
      { s with
        forward := s.forward.dropWhile (·.complete), replies := [], alertSlot := none
        slotOwed := decide (s.replies.length + (if s.alertSlot.isSome then 1 else 0) <
          (s.forward.takeWhile (·.complete)).countP (·.ending) + (if s.slotOwed then 1 else 0)) } := by
  induction k generalizing s with
  | zero => omega
  | succ k ih =>
    rw [arbitrate, if_neg (by simp [ht])]
    by_cases h₁ : s.outbound = true ∧ (s.slotOwed || !s.headReady) = true
    · obtain ⟨f, replies, slot, hf, he, hn⟩ := takeOutbound_some h₁.1
      have hc : arbiterChoice s = some (f, { s with replies := replies, alertSlot := slot, slotOwed := false }) := by
        simp [arbiterChoice, h₁.1, h₁.2, hf]
      have hready : s.slotOwed = true ∨ s.forward.takeWhile (·.complete) = [] := by
        have := h₁.2
        cases hl : s.forward with
        | nil => simp
        | cons q rest => simp [State.headReady, hl] at this ⊢; rcases this with h | h <;> simp [h]
      rw [hc]
      dsimp only
      rw [if_neg (by rw [hd]; decide), he]
      refine (ih (s := { s with replies := replies, alertSlot := slot, slotOwed := false || false }) hd ht
        (by dsimp only; omega)).trans ?_
      simp only [Bool.or_false, State.mk.injEq, true_and, and_true, decide_eq_decide]
      rcases hready with h | h
      · simp only [h, if_true, Bool.false_eq_true, if_false]; omega
      · simp only [h, List.countP_nil, Bool.false_eq_true, if_false]
        have : (if s.slotOwed = true then 1 else 0) ≤ 1 := by split <;> omega
        omega
    · cases hr : s.headReady
      · have ho : s.outbound = false := by simpa [hr] using h₁
        have hc : arbiterChoice s = none := by simp [arbiterChoice, ho, hr]
        obtain ⟨ha, hp⟩ := State.outbound_eq_false.mp ho
        have hl : s.forward.dropWhile (·.complete) = s.forward ∧ s.forward.takeWhile (·.complete) = [] := by
          cases hl : s.forward with
          | nil => simp
          | cons q rest => simp [State.headReady, hl] at hr; simp [hr]
        rw [hc, hl.1, hl.2, hp, ha]
        dsimp only
        simp only [List.length_nil, List.countP_nil, Option.isSome_none, Bool.false_eq_true, if_false, Nat.zero_add, Nat.add_zero]
        rw [← hp, ← ha, show decide (0 < if s.slotOwed = true then 1 else 0) = s.slotOwed by cases s.slotOwed <;> rfl]
      · cases hl : s.forward with
        | nil => simp [State.headReady, hl] at hr
        | cons q rest =>
          have hq : q.complete = true := by simpa [State.headReady, hl] using hr
          have hc : arbiterChoice s = some (⟨q.frame, q.ending, q.underway⟩, { s with forward := rest }) := by
            unfold arbiterChoice
            rw [if_neg (by simpa using h₁), if_pos hr, takeForward, hl]
          rw [hc]
          dsimp only
          rw [if_neg (by rw [hd]; decide)]
          refine (ih (s := { s with forward := rest, slotOwed := s.slotOwed || q.ending }) hd ht
            (by simp only [hl, List.length_cons] at hk; dsimp only; omega)).trans ?_
          have hown : s.slotOwed = true → s.replies.length + (if s.alertSlot.isSome then 1 else 0) = 0 := by
            intro h
            have : s.outbound = false := by simpa [h] using h₁
            obtain ⟨ha, hp⟩ := State.outbound_eq_false.mp this
            simp [ha, hp]
          simp only [State.mk.injEq, true_and, and_true, List.dropWhile_cons, List.takeWhile_cons, hq, if_true,
            List.countP_cons, decide_eq_decide]
          cases h : s.slotOwed
          · cases q.ending <;> simp
          · have := hown h
            simp only [Bool.true_or, if_true]
            omega

/-! ### The SEG that the tracker is taking (R34, R41, R189) -/

/-- Only a complete close can mark the frame on the line, and no close ends or begins a transmission (R34). -/
theorem fillStage_txD (k : CloseKind) (n : CycleNo) (s : State) :
    (fillStage k n s).txD.isSome = s.txD.isSome ∧ (k ≠ .complete → (fillStage k n s).txD = s.txD) := by
  unfold fillStage nameEnding
  dsimp only
  repeat' split
  all_goals simp [markClosing]

/-- With no SEG under way the end of a segment's work changes nothing (R41). -/
theorem segmentOver_settled {s : State} (h : ForwardSettled s) : segmentOver s = s := by
  have hf : s.forward.map (fun q => { q with underway := false }) = s.forward :=
    (List.map_congr_left fun q hq => by rw [← (h.1 q hq).2.1]; rfl).trans (List.map_id _)
  have ht : s.txD.map (fun f => { f with underway := false }) = s.txD := by
    cases hx : s.txD with
    | none => rfl
    | some f => simp only [Option.map_some, ← h.2 f hx]
  unfold segmentOver
  rw [hf, ht]

/-! ### What a receiver takes (R187, R188) -/

@[simp] theorem State.setRx_up (s : State) (p q : Port) (r : Receiver) : (s.setRx p r).up q = s.up q := by
  cases p <;> cases q <;> rfl

@[simp] theorem State.setRx_rx (s : State) (p : Port) (r : Receiver) : (s.setRx p r).rx p = r := by cases p <;> rfl

@[simp] theorem State.setRx_setRx (s : State) (p : Port) (r r' : Receiver) : (s.setRx p r).setRx p r' = s.setRx p r' := by
  cases p <;> rfl

@[simp] theorem State.setRx_self (s : State) (p : Port) : s.setRx p (s.rx p) = s := by cases p <;> rfl

/-- A receiver takes symbols in two parts as it takes them in one: with no event in the first part the second follows, and after an event
nothing more is taken (log 7). -/
theorem Receiver.run_append (up : Bool) (r : Receiver) (a b : List Symbol) :
    r.run up (a ++ b) =
      match r.run up a with
      | (r', none) => r'.run up b
      | (r', some (e, rest)) => (r', some (e, rest ++ b)) := by
  induction a generalizing r with
  | nil => rfl
  | cons x a ih =>
    rw [List.cons_append, Receiver.run, Receiver.run]
    rcases r.take up x with ⟨r', _ | e⟩
    · exact ih r'
    · rfl

/-- A port comes UP, or goes DOWN, with its receiver empty, and comes UP only from DOWN (R187). -/
theorem Receiver.take_link (up : Bool) (r : Receiver) (x : Symbol) :
    ((r.take up x).2 = some .comesUp → (r.take up x).1 = .quiet ∧ up = false) ∧
      ((r.take up x).2 = some .goesDown → (r.take up x).1 = .quiet ∧ up = true) := by
  have hd : ∀ o y, (delimit o y).2 ≠ some .comesUp ∧ (delimit o y).2 ≠ some .goesDown := by
    intro o y
    cases y <;> cases o <;> simp only [delimit, Arriving.more] <;> (try split) <;> exact ⟨nofun, nofun⟩
  cases up
  · change ((r.takeDown x).2 = _ → _) ∧ ((r.takeDown x).2 = _ → _)
    simp only [Receiver.take, Bool.false_eq_true, if_false, Receiver.takeDown]
    repeat' split
    all_goals simp
  · simp only [Receiver.take, if_true, Receiver.takeUp]
    split <;> simp [hd]

/-- What a receiver's symbols do: without an event nothing but what it keeps changes; with one, what the event brings about happens
to the state with what the receiver then keeps (R187, R188). -/
theorem takeLine_eq (p : Port) (on : RxEvent → State → State) (l : List Symbol) (s : State) :
    takeLine p on l s =
      match ((s.rx p).run (s.up p) l).2 with
      | none => s.setRx p ((s.rx p).run (s.up p) l).1
      | some e => on e.1 (s.setRx p ((s.rx p).run (s.up p) l).1) := by
  unfold takeLine
  split <;> rename_i h <;> rw [h]

theorem TakesQuietly.takeFrom {s : State} {p : Port} {line : List Pattern} {r : Receiver} (h : TakesQuietly s p line r)
    (b : List (List Between)) : takeFrom p line b s = s.setRx p r := by
  rw [Machine.takeFrom, takeLine_eq, h]

theorem Brings.takeFrom {s : State} {p : Port} {line : List Pattern} {e : RxEvent} {r : Receiver} (h : Brings s p line e r)
    (b : List (List Between)) : takeFrom p line b s = lineEvent p b e (s.setRx p r) := by
  rw [Machine.takeFrom, takeLine_eq, h]

/-- A frame delivered on port U is received there (R188). -/
theorem Delivers.frameReceivedU {s : State} {line : List Pattern} {last : Pattern} {f : Arriving} {ending : FrameEnd} {r : Receiver}
    (h : Delivers s .u (line ++ [last]) f ending r) (b : List (List Between)) :
    exec (.frameReceived .u line last b) s = act (receiveU (takeSegment b) f ending { s with rxU := r }) :=
  congrArg act (h.frame.takeFrom b)

/-- A frame delivered on port D is received there (R188). -/
theorem Delivers.frameReceivedD {s : State} {line : List Pattern} {last : Pattern} {f : Arriving} {ending : FrameEnd} {r : Receiver}
    (h : Delivers s .d (line ++ [last]) f ending r) (b : List (List Between)) :
    exec (.frameReceived .d line last b) s = act (receiveD f ending { s with rxD := r }) :=
  congrArg act (h.frame.takeFrom b)

/-! ### Taking a command (R171, R172) -/

theorem AtHead.mayTake {s : State} {c : Command} {rest : List Command} {code : Byte} (h : AtHead s c rest code) :
    mayTake c s = true := by
  simpa [Machine.mayTake] using h.room

theorem carryOut_eq (run : List Byte → State → Answer) (c : Command) (s : State) :
    act (carryOut run c s) = answers c (run c.args s).status (run c.args s).result (run c.args s).state := rfl

/-- The command at the head is carried out on the state without it, and answered (R171, R172). -/
theorem takeHead_of {s : State} {c : Command} {rest : List Command} {code : Byte} (h : AtHead s c rest code)
    {is : Command → Bool} (hi : is c = true) {run : List Byte → State → Answer} {a : Answer} (ha : run c.args (taken s rest) = a) :
    act (takeHead is run s) = answers c a.status a.result a.state := by
  subst ha
  rw [takeHead, h.head]
  simp only [hi, h.mayTake, Bool.and_self, if_true]
  rfl

theorem hasCode_of {s : State} {c : Command} {rest : List Command} {code : Byte} (h : AtHead s c rest code) :
    hasCode code c = true := by simp [hasCode, h.code]

/-- Nothing is taken where the head is no command of the row, or waits for a reply place (R171). -/
theorem takeHead_idle {s : State} {is : Command → Bool} {run : List Byte → State → Answer}
    (h : ∀ c rest, s.cmdFifo = c :: rest → is c = false ∨ mayTake c s = false) : takeHead is run s = s := by
  unfold takeHead
  split
  · rfl
  · rename_i c rest hc
    rcases h c rest hc with h | h <;> simp [h]

end Sys2Proof.Machine
end

