-- ==== Sys2Proof/Laws/Commands.lean ====
section
/-! SUPPORT. What the catalogue, a write, validation and LOG-ACK's search can do (R16, R126, R148, R175), and that an event
between two samples is a row. -/

namespace Sys2Proof.Machine

theorem catalogue_mem {code : Byte} {run : List Byte → State → Answer} (h : catalogue code = some run) :
    (code, run) ∈ commandTable := by
  unfold catalogue at h
  generalize commandTable = l at h
  induction l with
  | nil => simp at h
  | cons p l ih =>
    obtain ⟨x, y⟩ := p
    rw [List.lookup_cons] at h
    split at h
    · rename_i hx
      simp at hx h
      simp [hx, h]
    · exact List.mem_cons_of_mem _ (ih h)

theorem catalogue_none {code : Byte} : catalogue code = none ↔ code ∉ commandCodes := by
  unfold catalogue
  rw [List.lookup_eq_none_iff]
  simp [commandTable, commandCodes]

/-- A write answered with a status other than OK changes nothing (R16). -/
theorem writeItems_keeps (r : Nat → Nat → Bool) (l : FieldList) (w : TableStore → TableStore) (s : State)
    (h : (writeItems r l w s).status ≠ .ok) : (writeItems r l w s).state = s := by
  revert h
  unfold writeItems refuse
  repeat' split
  all_goals simp

/-- An accepted write finds the bank open and every item in range, and writes the tables alone (R16). -/
theorem writeItems_open {r : Nat → Nat → Bool} {l : FieldList} {w : TableStore → TableStore} {s : State}
    (h₁ : s.tables.copyInFlight = false) (h₂ : s.tables.commit = none) (h₃ : s.tables.modeChange = false)
    (h₄ : firstRefused r l = none) : writeItems r l w s = ⟨{ s with tables := w s.tables }, .ok, .empty⟩ := by
  simp [writeItems, pendingResult, h₁, h₂, h₃, h₄]

theorem validateOver_none (b : Bank) (l : List Chan) :
    validateOver b l = none ↔ ∀ c ∈ l, validateEntry b.channels[c] = none := by
  induction l with
  | nil => simp [validateOver]
  | cons a l ih =>
    rw [validateOver, List.forall_mem_cons, ← ih]
    split
    · rename_i h
      exact ⟨nofun, fun h' => by rw [h] at h'; cases h'.1⟩
    · rename_i h
      exact ⟨fun h' => ⟨h, h'⟩, fun h' => h'.2⟩

theorem acknowledge_some (q : Seq) (front back : List LogRecord) (r : LogRecord) (hr : r.sequence = q)
    (hf : ∀ x ∈ front, x.sequence ≠ q) : acknowledge q (front ++ r :: back) = some (front.length + 1, back) := by
  induction front with
  | nil => simp [acknowledge, hr]
  | cons a l ih => simp [acknowledge, hf a (by simp), ih (fun x hx => hf x (by simp [hx]))]

theorem acknowledge_none (q : Seq) (l : List LogRecord) (hf : ∀ x ∈ l, x.sequence ≠ q) : acknowledge q l = none := by
  induction l with
  | nil => rfl
  | cons a l ih => simp [acknowledge, hf a (by simp), ih (fun x hx => hf x (by simp [hx]))]

theorem word2_toNat (a b : Byte) : (word2 a b).toNat = a.toNat * 256 + b.toNat := by
  have := b.isLt
  rw [word2, BitVec.toNat_append, ← Nat.shiftLeft_add_eq_or_of_lt this, Nat.shiftLeft_eq]

/-- While port U is DOWN no return frame stays in its queue (R195). -/
theorem settle_ret {s : State} (h : s.upU = false) : (settle s).ret = [] := by simp [settle, returnSend, h]

/-! ### Events between samples as rows (R65, R171; log 6) -/

/-- The row of the command at the head takes it as the Executor does (R171). -/
theorem ran_headRow (s : State) : ran (headRow s) s = settle (executorTakes s) := by
  have hn : ∀ is run, s.cmdFifo = [] → takeHead is run s = s := fun is run h => by rw [takeHead, h]
  have hc : ∀ c rest is run run', s.cmdFifo = c :: rest → is c = true → run c.args (taken s rest) = run' c.args (taken s rest) →
      takeHead is run s = takeHead (fun _ => true) run' s := by
    intro c rest is run run' h hi hr
    rw [takeHead, takeHead, h]
    simp only [hi, Bool.true_and]
    split
    · change placeReply _ _ _ _ = placeReply _ _ _ _
      change run c.args { s with cmdFifo := rest } = run' c.args { s with cmdFifo := rest } at hr
      rw [hr]
    · rfl
  cases h : s.cmdFifo with
  | nil =>
    have hr : headRow s = .status := by rw [headRow, h]
    rw [hr, executorTakes, h]
    exact congrArg settle (hn _ _ h)
  | cons c rest =>
    rw [executorTakes, h]
    dsimp only
    by_cases h60 : c.code = 0x60
    · have hcat : (catalogue c.code).getD runUnknown = runReset := by rw [h60]; rfl
      rw [hcat]
      have key : ∀ scope row run, headRow s = row → (∀ u, exec row u = act (takeHead (isReset scope) run u)) →
          isReset scope c = true → run c.args (taken s rest) = runReset c.args (taken s rest) →
          ran (headRow s) s = settle (takeHead (fun _ => true) runReset s) := by
        intro scope row run h1 h2 h3 h4
        rw [h1, ran, h2]
        exact congrArg settle (hc c rest _ run runReset h h3 h4)
      by_cases h1 : c.args = [1]
      · exact key .log .resetLog runResetLog (by rw [headRow, h]; dsimp only; rw [if_pos h60, if_pos h1]) (fun _ => rfl)
          (by simp [isReset, h60, h1, scopeOf])
          (by rw [h1]; rfl)
      · by_cases h2 : c.args = [2]
        · exact key .device .resetDevice runResetDevice (by rw [headRow, h]; dsimp only; rw [if_pos h60, if_neg h1, if_pos h2]) (fun _ => rfl)
            (by simp [isReset, h60, h2, scopeOf]) (by rw [h2]; rfl)
        · have hs : scopeOf c.args = some .runtime ∨ scopeOf c.args = none := by
            unfold scopeOf
            split
            · rename_i b hb
              rw [hb] at h1 h2
              by_cases hz : b = 0
              · simp [hz]
              · have n1 : b ≠ 1 := fun x => h1 (by rw [x])
                have n2 : b ≠ 2 := fun x => h2 (by rw [x])
                rw [if_neg hz, if_neg n1, if_neg n2]; exact Or.inr rfl
            · simp
          refine key .runtime .resetRuntime runResetRuntime
            (by rw [headRow, h]; dsimp only; rw [if_pos h60, if_neg h1, if_neg h2]) (fun _ => rfl) ?_ ?_
          · rcases hs with x | x <;> simp [isReset, h60, x]
          · rcases hs with x | x <;> simp [runReset, runResetRuntime, x]
    · have key : ∀ row is run, (∀ u, exec row u = act (takeHead is run u)) → headRow s = row → is c = true →
          (catalogue c.code).getD runUnknown = run →
          ran (headRow s) s = settle (takeHead (fun _ => true) ((catalogue c.code).getD runUnknown) s) := by
        intro row is run h2 h1 h3 h4
        rw [h1, ran, h2]
        exact congrArg settle (hc c rest _ run _ h h3 (by rw [h4]))
      have hrow : headRow s = ((rowCodes.find? fun p => p.2 == c.code).map (·.1)).getD .unknownCommand := by
        rw [headRow, h]; dsimp only; rw [if_neg h60]
      by_cases hm : c.code ∈ commandCodes
      · have known : ∀ code row run, c.code = code → (∀ u, exec row u = act (takeHead (hasCode code) run u)) →
            ((rowCodes.find? fun p => p.2 == code).map (·.1)).getD .unknownCommand = row → (catalogue code).getD runUnknown = run →
            ran (headRow s) s = settle (takeHead (fun _ => true) ((catalogue c.code).getD runUnknown) s) := by
          intro code row run x h1 h2 h3
          subst x
          exact key row _ run h1 (hrow.trans h2) (by simp [hasCode]) h3
        simp only [commandCodes, List.mem_cons, List.not_mem_nil, or_false] at hm
        rcases hm with x | x | x | x | x | x | x | x | x | x | x | x | x | x | x | x | x | x | x | x | x
        · exact known 0x01 .identify runIdentify x (fun _ => rfl) rfl rfl
        · exact known 0x02 .status runStatus x (fun _ => rfl) rfl rfl
        · exact known 0x10 .readChannel runReadChannel x (fun _ => rfl) rfl rfl
        · exact known 0x11 .writeChannel runWriteChannel x (fun _ => rfl) rfl rfl
        · exact known 0x12 .readGroup runReadGroup x (fun _ => rfl) rfl rfl
        · exact known 0x13 .writeGroup runWriteGroup x (fun _ => rfl) rfl rfl
        · exact known 0x14 .readCycle runReadCycle x (fun _ => rfl) rfl rfl
        · exact known 0x15 .writeCycle runWriteCycle x (fun _ => rfl) rfl rfl
        · exact known 0x20 .commit runCommit x (fun _ => rfl) rfl rfl
        · exact known 0x21 .cancel runCancel x (fun _ => rfl) rfl rfl
        · exact known 0x22 .bypass runBypass x (fun _ => rfl) rfl rfl
        · exact known 0x30 .channelState runChannelState x (fun _ => rfl) rfl rfl
        · exact known 0x31 .groupState runGroupState x (fun _ => rfl) rfl rfl
        · exact known 0x32 .trip runTrip x (fun _ => rfl) rfl rfl
        · exact known 0x33 .rearm runRearm x (fun _ => rfl) rfl rfl
        · exact known 0x40 .logRead runLogRead x (fun _ => rfl) rfl rfl
        · exact known 0x41 .logAck runLogAck x (fun _ => rfl) rfl rfl
        · exact known 0x42 .logClear runLogClear x (fun _ => rfl) rfl rfl
        · exact known 0x50 .test runTestCommand x (fun _ => rfl) rfl rfl
        · exact known 0x51 .testResult runTestResult x (fun _ => rfl) rfl rfl
        · exact absurd x h60
      · have hnone : catalogue c.code = none := catalogue_none.mpr hm
        refine key .unknownCommand isUnknown runUnknown (fun _ => rfl) ?_ (by rw [isUnknown, hnone]; rfl) (by rw [hnone]; rfl)
        rw [hrow, List.find?_eq_none.mpr]
        · rfl
        · intro p hp hq
          have : ∀ p ∈ rowCodes, p.2 ∈ commandCodes := by decide
          exact hm (beq_iff_eq.mp hq ▸ this p hp)

/-- Port U's events that do not reach the tracker come out alike, whatever a SEG with a place would do (R41, R189). -/
theorem lineEventU_beside {e : RxEvent} {s : State} {p : Port} {r : Receiver} (h : reachesTracker e s = false)
    (f f' : Segment → State → State) : lineEventU f e (s.setRx p r) = lineEventU f' e (s.setRx p r) := by
  cases e with
  | frame a ending =>
    have hroom : (s.setRx p r).forwardRoom = s.forwardRoom := by cases p <;> rfl
    unfold reachesTracker at h
    simp only [lineEventU, receiveU, hroom]
    cases hf : receive a ending with
    | good kind payload =>
      simp only [hf, Bool.and_eq_false_iff, beq_eq_false_iff_ne] at h
      dsimp only
      rcases h with h | h
      · rw [if_neg h, if_neg h]
      · simp [h]
    | _ => rfl
  | goesDown => simp [reachesTracker] at h
  | _ => rfl

/-- An event between two samples is its row, taken whole (R65, R82, R95; log 6). -/
theorem betweenAct_row (b : Between) (s : State) : betweenAct b s = ran (betweenRow b s) s := by
  cases b with
  | executorTakes => exact (ran_headRow s).symm
  | portULine line =>
    unfold betweenAct betweenRow takeBeside
    dsimp only
    split
    · rfl
    · rename_i h
      refine congrArg settle ?_
      rw [takeFrom, takeLine_eq, takeLine_eq]
      cases hr : (s.rxU.run s.upU (line.map symbolOf)).2 with
      | none =>
        change ((s.rx .u).run (s.up .u) (line.map symbolOf)).2 = none at hr
        rw [hr]
      | some e =>
        rw [hr] at h
        change ((s.rx .u).run (s.up .u) (line.map symbolOf)).2 = some e at hr
        rw [hr]
        exact lineEventU_beside (by simpa using h) _ _
  | _ => rfl

end Sys2Proof.Machine
end

