-- ==== Sys2Proof/Laws/Samples.lean ====
section
/-! SUPPORT. What an evaluation, a STALE trigger and the work on a sample do to the runtime records and the groups. -/

namespace Sys2Proof.Machine

theorem ClassSet.isEmpty_iff (k : ClassSet) : k.isEmpty = true ↔ k = .none := by
  obtain ⟨a, b, c, d, e, f⟩ := k
  cases a <;> cases b <;> cases c <;> cases d <;> cases e <;> cases f <;> simp [ClassSet.isEmpty, ClassSet.none]

theorem submit_channel (n : Option CycleNo) (b : RecordBody) (s : State) (c : Chan) : (submit n b s).channel c = s.channel c :=
  State.channel_congr (submit_channels n b s) c

theorem tripRequest_channel (q : TripRequest) (s : State) (c : Chan) : (tripRequest q s).channel c = s.channel c :=
  State.channel_congr (tripRequest_channels q s) c

theorem submit_group (n : Option CycleNo) (b : RecordBody) (s : State) (g : Grp) : (submit n b s).group g = s.group g :=
  State.group_congr (submit_groups n b s) g

theorem setChannel_group (s : State) (c : Chan) (r : ChannelRecord) (g : Grp) : (s.setChannel c r).group g = s.group g := rfl

/-- Qualification writes the channel's own record and no other (R70). -/
theorem qualifyFault_channel (c : Chan) (n : CycleNo) (k : ClassSet) (v : Option Sample) (r : ChannelRecord) (s : State)
    (d : Chan) : (qualifyFault c n k v r s).channel d = if c = d then r.qualified k n else s.channel d := by
  unfold qualifyFault
  dsimp only
  have h : (submit (some n) (.fault c k v (s.entry c).group) (s.setChannel c (r.qualified k n))).channel d =
      if c = d then r.qualified k n else s.channel d := by
    rw [submit_channel, State.setChannel_channel]
  split
  · exact h
  · split
    · rw [tripRequest_channel, h]
    · exact h

/-- The record an evaluation leaves its channel with (R69, R70, R72, R73). -/
def evaluatedRecord (r : ChannelRecord) (e : ChannelEntry) (n : CycleNo) (k : ClassSet) : ChannelRecord :=
  let p := r.pushed e.window k.verdict
  if r.state = .faulted then
    if k.isEmpty then if e.recovery ≤ p.recovery + 1 then p.recovered else { p with recovery := p.recovery + 1 }
    else { p with recovery := 0 }
  else if e.threshold ≤ p.violations then p.qualified k n
  else { p with state := if p.violations = 0 then .clean else .suspect }

/-- An evaluation writes its channel's record, from that record and its active entry alone, and no other (R69). -/
theorem evaluate_channel (c : Chan) (n : CycleNo) (k : ClassSet) (v : Option Sample) (s : State) (d : Chan) :
    (evaluate c n k v s).channel d = if c = d then evaluatedRecord (s.channel c) (s.entry c) n k else s.channel d := by
  unfold evaluate evaluatedRecord
  dsimp only
  split
  · split
    · split
      · rw [submit_channel, State.setChannel_channel]
      · rw [State.setChannel_channel]
    · rw [State.setChannel_channel]
  · split
    · rw [qualifyFault_channel]
    · rw [State.setChannel_channel]

theorem takesStale_congr {s t : State} (h : t.tables = s.tables) (n : CycleNo) (seen : Vector Bool 96) (c : Chan) :
    takesStale t n seen c = takesStale s n seen c := by
  simp only [takesStale, State.checked_congr h, State.entry_congr h]

/-- A STALE trigger over some channels gives each listed channel that takes it one evaluation, and leaves the others (R75). -/
theorem staleOver_channel (n : CycleNo) (seen : Vector Bool 96) (l : List Chan) (hl : l.Nodup) (s : State) (d : Chan) :
    (staleOver n seen l s).channel d =
      if d ∈ l ∧ takesStale s n seen d = true then evaluatedRecord (s.channel d) (s.entry d) n .staleOnly else s.channel d := by
  induction l generalizing s with
  | nil => simp [staleOver]
  | cons c l ih =>
    obtain ⟨hc, hl⟩ := List.nodup_cons.mp hl
    rw [staleOver, ih hl]
    have ht : (if takesStale s n seen c = true then evaluate c n .staleOnly none s else s).tables = s.tables := by
      split <;> simp
    rw [takesStale_congr ht, State.entry_congr ht]
    by_cases hcd : c = d
    · subst hcd
      by_cases hs : takesStale s n seen c = true
      · simp [hc, hs, evaluate_channel]
      · simp [hc, hs]
    · have hch : (if takesStale s n seen c = true then evaluate c n .staleOnly none s else s).channel d = s.channel d := by
        split
        · rw [evaluate_channel, if_neg hcd]
        · rfl
      have hdc : d ≠ c := fun e => hcd e.symm
      rw [hch]; simp [hdc]

theorem staleTrigger_channel (n : CycleNo) (seen : Vector Bool 96) (s : State) (d : Chan) :
    (staleTrigger n seen s).channel d =
      if takesStale s n seen d = true then evaluatedRecord (s.channel d) (s.entry d) n .staleOnly else s.channel d := by
  have := staleOver_channel n seen allChannels (List.nodup_finRange 96) s d
  simpa [staleTrigger, allChannels] using this

/-! ### Evaluations, the tracker and the log (R69, R75, R144) -/

/-- A trip request reads the tracker nowhere but in the cycle it carries (R104). -/
theorem tripRequest_retrack (q : TripRequest) (x : Tracker) (s : State) :
    tripRequest q { s with tracker := x } = { tripRequest q s with tracker := x } := by
  have hg : ({ s with tracker := x } : State).group q.group = s.group q.group := rfl
  cases hm : s.tables.deviceMode
  · simp [tripRequest, hm]
  · cases hs : (s.group q.group).state <;> (simp only [tripRequest, hm, hg, hs]; rfl)

theorem qualifyFault_retrack (c : Chan) (n : CycleNo) (k : ClassSet) (v : Option Sample) (r : ChannelRecord) (x : Tracker)
    (s : State) :
    qualifyFault c n k v r { s with tracker := x } = { qualifyFault c n k v r s with tracker := x } := by
  have he : ({ s with tracker := x } : State).entry c = s.entry c := rfl
  unfold qualifyFault
  dsimp only
  rw [he]
  cases (s.entry c).group with
  | none => rfl
  | some g =>
    dsimp only
    split
    · exact tripRequest_retrack ⟨g, .channel, some c, some n⟩ x
        (submit (some n) (.fault c k v (some g)) (s.setChannel c (r.qualified k n)))
    · rfl

/-- An evaluation reads and writes no field of the tracker (R69). -/
theorem evaluate_retrack (c : Chan) (n : CycleNo) (k : ClassSet) (v : Option Sample) (x : Tracker) (s : State) :
    evaluate c n k v { s with tracker := x } = { evaluate c n k v s with tracker := x } := by
  have he : ({ s with tracker := x } : State).entry c = s.entry c := rfl
  have hc : ({ s with tracker := x } : State).channel c = s.channel c := rfl
  unfold evaluate
  dsimp only
  rw [he, hc, qualifyFault_retrack]
  repeat' split
  all_goals rfl

theorem staleOver_retrack (n : CycleNo) (seen : Vector Bool 96) (l : List Chan) (x : Tracker) (s : State) :
    staleOver n seen l { s with tracker := x } = { staleOver n seen l s with tracker := x } := by
  induction l generalizing s with
  | nil => rfl
  | cons c l ih =>
    rw [staleOver, staleOver, ← ih, takesStale_congr (t := { s with tracker := x }) (s := s) rfl, evaluate_retrack]
    congr 1
    split <;> rfl

theorem qualifyFault_keeps (c : Chan) (n : CycleNo) (k : ClassSet) (v : Option Sample) (r : ChannelRecord) (s : State) :
    KeepsRecords s.log (qualifyFault c n k v r s).log := by
  have h := submit_keeps (some n) (.fault c k v (s.entry c).group) (s.setChannel c (r.qualified k n))
  unfold qualifyFault
  dsimp only
  split
  · exact h
  · split
    · exact h.trans (tripRequest_keeps ..)
    · exact h

theorem evaluate_keeps (c : Chan) (n : CycleNo) (k : ClassSet) (v : Option Sample) (s : State) :
    KeepsRecords s.log (evaluate c n k v s).log := by
  unfold evaluate
  dsimp only
  repeat' split
  all_goals first
    | exact List.take_length
    | exact qualifyFault_keeps ..
    | exact submit_keeps (s := s.setChannel c _) ..

theorem staleOver_keeps (n : CycleNo) (seen : Vector Bool 96) (l : List Chan) (s : State) :
    KeepsRecords s.log (staleOver n seen l s).log := by
  induction l generalizing s with
  | nil => exact List.take_length
  | cons c l ih =>
    refine KeepsRecords.trans ?_ (ih _)
    split
    · exact evaluate_keeps ..
    · exact List.take_length

/-- A STALE trigger reads and writes no field of the tracker but what it is handed (R42, R75). -/
theorem staleTrigger_retrack (n : CycleNo) (seen : Vector Bool 96) (x : Tracker) (s : State) :
    staleTrigger n seen { s with tracker := x } = { staleTrigger n seen s with tracker := x } :=
  staleOver_retrack n seen allChannels x s

/-- A STALE trigger's records stand behind those already held (R75, R144). -/
theorem staleTrigger_keeps (n : CycleNo) (seen : Vector Bool 96) (s : State) :
    KeepsRecords s.log (staleTrigger n seen s).log := staleOver_keeps n seen allChannels s

/-- An evaluation leaves the values that a sample alone writes (R77). -/
theorem evaluatedRecord_values (r : ChannelRecord) (e : ChannelEntry) (n : CycleNo) (k : ClassSet) :
    (evaluatedRecord r e n k).lastGood = r.lastGood ∧ (evaluatedRecord r e n k).rateBase = r.rateBase ∧
      (evaluatedRecord r e n k).inWarn = r.inWarn := by
  unfold evaluatedRecord
  dsimp only
  repeat' split
  all_goals exact ⟨rfl, rfl, rfl⟩

/-- In ACTIVE an evaluation requests its channel's group exactly where it qualifies a fault of a GUARD channel with trip yes (R70, R74);
the groups otherwise stand. -/
theorem evaluate_group {s : State} (hm : s.tables.deviceMode = .active) (c : Chan) (n : CycleNo) (k : ClassSet)
    (v : Option Sample) (g : Grp) :
    (evaluate c n k v s).group g =
      if (s.channel c).state ≠ .faulted ∧
          (s.entry c).threshold ≤ ((s.channel c).pushed (s.entry c).window k.verdict).violations ∧
          (s.entry c).group = some g ∧ (s.entry c).mode = .guard ∧ (s.entry c).trip = true then
        afterRequest s g .channel (some c) (some n)
      else s.group g := by
  unfold evaluate
  dsimp only
  by_cases hf : (s.channel c).state = .faulted
  · have hn : ¬ ((s.channel c).state ≠ .faulted ∧
          (s.entry c).threshold ≤ ((s.channel c).pushed (s.entry c).window k.verdict).violations ∧
          (s.entry c).group = some g ∧ (s.entry c).mode = .guard ∧ (s.entry c).trip = true) := fun h => h.1 hf
    rw [if_pos hf, if_neg hn]
    split
    · split
      · rw [submit_group]; rfl
      · rfl
    · rfl
  · rw [if_neg hf]
    by_cases hp : (s.entry c).threshold ≤ ((s.channel c).pushed (s.entry c).window k.verdict).violations
    · rw [if_pos hp]
      unfold qualifyFault
      dsimp only
      have h0 : ∀ b r, (submit (some n) b (s.setChannel c r)).group g = s.group g := fun b r => by rw [submit_group]; rfl
      split
      · rename_i hg
        rw [h0, if_neg (by simp [hg])]
      · rename_i a hg
        split
        · rename_i ht
          rw [tripRequest_group (by simpa using hm)]
          simp only [Bool.and_eq_true, beq_iff_eq] at ht
          have he : ∀ b r, afterRequest (submit (some n) b (s.setChannel c r)) g .channel (some c) (some n) =
              afterRequest s g .channel (some c) (some n) := fun b r => by
            unfold afterRequest
            rw [h0, State.groupEntry_congr (s := s) (by simp)]
          rw [h0, he]
          by_cases hag : a = g
          · subst hag; rw [if_pos rfl, if_pos ⟨hf, hp, hg, ht.1, ht.2⟩]
          · rw [if_neg hag, if_neg (by simp [hg, hag])]
        · rename_i ht
          simp only [Bool.and_eq_true, beq_iff_eq] at ht
          rw [h0, if_neg (fun h => ht ⟨h.2.2.2.1, h.2.2.2.2⟩)]
    · have hn : ¬ ((s.channel c).state ≠ .faulted ∧
          (s.entry c).threshold ≤ ((s.channel c).pushed (s.entry c).window k.verdict).violations ∧
          (s.entry c).group = some g ∧ (s.entry c).mode = .guard ∧ (s.entry c).trip = true) := fun h => hp h.2.1
      rw [if_neg hp, if_neg hn]; rfl

/-! ### The work on one sample (R46 to R49) -/

theorem judge_frame (c : Chan) (x : SampleEntry) (s : State) :
    (judge c x s).1 =
      { s with channels := (judge c x s).1.channels, groups := (judge c x s).1.groups, faultLow := (judge c x s).1.faultLow,
               log := (judge c x s).1.log, alertSlot := (judge c x s).1.alertSlot } := by
  unfold judge
  dsimp only
  rw [updateLastGood_frame, evaluate_frame, noteValue_frame]

/-- What the work on a sample leaves of port D, the Forward Queue, the tables and the tracker, whose seen map is given. -/
structure SampleFrame (s t : State) (seen : Vector Bool 96) : Prop where
  up : t.upD = s.upD
  tx : t.txD = s.txD
  forward : t.forward = s.forward
  tables : t.tables = s.tables
  tracker : t.tracker = { s.tracker with seen := seen }

/-- The work on one sample of an open cycle: its table channel is seen, a duplicate is removed, a judged sample keeps its channel, and
an unchecked one passes unaltered (R46 to R49, R86). -/
theorem sampleWork_spec (x : SampleEntry) (s : State) (ho : s.tracker.state = .opened) :
    SampleFrame s (sampleWork x s).1
      (if h : x.channel.toNat < 96 then s.tracker.seen.set x.channel.toNat true else s.tracker.seen) ∧
    (∀ c : Chan, c.val = x.channel.toNat → s.checked c = true → s.tracker.seen[c] = true → (sampleWork x s).2 = none) ∧
    (∀ c : Chan, c.val = x.channel.toNat → s.checked c = true → s.tracker.seen[c] = false →
      ∃ y, (sampleWork x s).2 = some y ∧ y.channel = x.channel) ∧
    ((∀ c : Chan, c.val = x.channel.toNat → s.checked c = false) → (sampleWork x s).2 = some x) := by
  unfold sampleWork
  rw [if_neg (by simp [ho])]
  by_cases h : x.channel.toNat < 96
  · have htc : tableChannel x.channel = some ⟨x.channel.toNat, h⟩ := by simp [tableChannel, h]
    rw [htc]; dsimp only
    have hun : ∀ c : Chan, c.val = x.channel.toNat → c = ⟨x.channel.toNat, h⟩ := fun c hc => Fin.ext hc
    by_cases hc : s.checked ⟨x.channel.toNat, h⟩ = true
    · simp only [hc, Bool.not_true, Bool.false_eq_true, if_false]
      by_cases hs : s.tracker.seen[(⟨x.channel.toNat, h⟩ : Chan)] = true
      · simp only [hs, if_true]
        refine ⟨?_, fun _ _ _ _ => trivial, fun c hcc _ h' => ?_, fun h' => ?_⟩
        · have e : (noteDuplicate ⟨x.channel.toNat, h⟩ s) = _ := noteDuplicate_frame _ s
          refine ⟨by rw [e], by rw [e], by rw [e], by rw [e], ?_⟩
          rw [e]; simp only [h, dif_pos]
          have : s.tracker.seen.set x.channel.toNat true h = s.tracker.seen := by
            ext i hi
            rw [Vector.getElem_set]
            split
            · rename_i hh; subst hh; exact hs.symm
            · rfl
          rw [this]
        · rw [hun c hcc] at h'; rw [h'] at hs; cases hs
        · rw [h' _ rfl] at hc; cases hc
      · simp only [hs, Bool.false_eq_true, if_false]
        refine ⟨?_, fun c hcc _ h' => ?_, fun c hcc _ _ => ⟨_, rfl, rfl⟩, fun h' => ?_⟩
        · have e := judge_frame ⟨x.channel.toNat, h⟩ x (s.markSeen ⟨x.channel.toNat, h⟩)
          refine ⟨by rw [e]; rfl, by rw [e]; rfl, by rw [e]; rfl, by rw [e]; rfl, ?_⟩
          rw [e]; simp only [h, dif_pos]; rfl
        · rw [hun c hcc] at h'; exact absurd h' hs
        · rw [h' _ rfl] at hc; cases hc
    · simp only [hc, Bool.not_false, if_true]
      refine ⟨⟨rfl, rfl, rfl, rfl, ?_⟩, fun c hcc h' => ?_, fun c hcc h' => ?_, fun _ => trivial⟩
      · simp only [h, dif_pos]; rfl
      · rw [hun c hcc] at h'; exact absurd h' hc
      · rw [hun c hcc] at h'; exact absurd h' hc
  · have htc : tableChannel x.channel = none := by simp [tableChannel, h]
    rw [htc]; dsimp only
    refine ⟨⟨rfl, rfl, rfl, rfl, ?_⟩, fun c hcc => ?_, fun c hcc => ?_, fun _ => rfl⟩
    · simp only [h, dif_neg, not_false_eq_true]
    · exact absurd (hcc ▸ c.isLt) h
    · exact absurd (hcc ▸ c.isLt) h

end Sys2Proof.Machine
end

