-- ==== Sys2Proof/Laws/Groups.lean ====
section
/-! SUPPORT. What rearming does to the groups and to FAULT_N (R103, R112 to R115). -/

namespace Sys2Proof.Machine

theorem anyTripped_iff (s : State) : s.anyTripped = true ↔ ∃ g : Grp, (s.group g).state = .tripped := by
  simp [State.anyTripped, allGroups]

/-- A rearm makes its group ARMED and leaves the others (R112). -/
theorem rearmGroup_group (how : RearmHow) (g : Grp) (s : State) (h : Grp) :
    (rearmGroup how g s).group h = if g = h then .armed else s.group h := by
  unfold rearmGroup
  rw [submit_group]
  exact State.setGroup_group s g h _

/-- The rearm of one group changes the readiness of no other (R112). -/
theorem failedCondition_rearmGroup {how : RearmHow} {g h : Grp} {s : State} (hne : g ≠ h) :
    failedCondition (rearmGroup how g s) h = failedCondition s h :=
  failedCondition_congr (by simp) (by simp) (by simp) (by simp) (by rw [rearmGroup_group, if_neg hne])

/-- A rearm keeps FAULT_N low exactly while a group is TRIPPED (R103). -/
theorem FaultPinHonest.rearmGroup {s : State} (h : FaultPinHonest s) (how : RearmHow) (g : Grp) :
    FaultPinHonest (Machine.rearmGroup how g s) := by
  unfold FaultPinHonest at *
  unfold Machine.rearmGroup
  simp only [submit_faultLow, submit_group, Bool.and_eq_true, anyTripped_iff, h]
  refine ⟨fun h => h.2, fun ⟨k, hk⟩ => ⟨?_, k, hk⟩⟩
  have hk' : ((s.setGroup g .armed).group k).state = .tripped := hk
  rw [State.setGroup_group] at hk'
  split at hk'
  · cases hk'
  · exact ⟨k, hk'⟩

/-- Auto-rearm over some groups: each that is TRIPPED, has auto_rearm yes and is ready becomes ARMED, and the others stay (R113). -/
theorem autoRearmOver_group (l : List Grp) (hl : l.Nodup) (s : State) (g : Grp) :
    (autoRearmOver l s).group g =
      if g ∈ l ∧ (s.group g).state = .tripped ∧ (s.groupEntry g).autoRearm = true ∧ failedCondition s g = none then .armed
      else s.group g := by
  induction l generalizing s with
  | nil => simp [autoRearmOver]
  | cons a l ih =>
    obtain ⟨ha, hl⟩ := List.nodup_cons.mp hl
    rw [autoRearmOver, ih hl]
    by_cases hag : a = g
    · subst hag
      simp only [ha, false_and, if_false, List.mem_cons, true_or, true_and]
      split
      · rw [rearmGroup_group, if_pos rfl]
      · rfl
    · have hne : g ≠ a := fun e => hag e.symm
      split
      · rw [rearmGroup_group, if_neg hag, failedCondition_rearmGroup hag, State.groupEntry_congr (s := s) (by simp) g]
        simp [hne]
      · simp [hne]

/-- A REARM answered with a status other than OK changes nothing (R114). -/
theorem tryRearm_notReady {how : RearmHow} {g : Grp} {s : State} (h : (tryRearm how g s).2.status ≠ .ok) :
    (tryRearm how g s).1 = s := by
  revert h
  unfold tryRearm
  split
  · exact fun _ => rfl
  · split
    · exact fun _ => rfl
    · exact fun h => absurd rfl h

theorem groupsWith_nodup (s : State) (p : GroupEntry → Bool) : (s.groupsWith p).Nodup := by
  unfold State.groupsWith allGroups
  exact (List.nodup_finRange 8).filter _

theorem groupsWith_length (s : State) (p : GroupEntry → Bool) : (s.groupsWith p).length ≤ 8 := by
  unfold State.groupsWith allGroups
  exact (List.length_filter_le _ _).trans (by simp)

end Sys2Proof.Machine
end

