-- ==== Sys2Proof/Laws/Wire.lean ====
section
/-! SUPPORT. Frames as bytes: the lengths of the pieces, and the reading back of what was written (R188, R196). -/

namespace Sys2Proof.Machine

@[simp] theorem byte1_length (n : Nat) : (byte1 n).length = 1 := rfl
@[simp] theorem byte2_length (n : Nat) : (byte2 n).length = 2 := rfl
@[simp] theorem byte3_length (n : Nat) : (byte3 n).length = 3 := rfl

/-- Two bytes written of a 16-bit word read back as it (R196). -/
theorem word2_bytes (w : BitVec 16) : word2 (BitVec.ofNat 8 (w.toNat / 256)) (BitVec.ofNat 8 w.toNat) = w := by
  apply BitVec.eq_of_toNat_eq
  have := w.isLt
  simp only [word2, BitVec.toNat_append, BitVec.toNat_ofNat, Nat.reducePow]
  rw [← Nat.shiftLeft_add_eq_or_of_lt (by omega), Nat.shiftLeft_eq]
  omega

/-- Three bytes written of a 24-bit word read back as it (R196). -/
theorem word3_bytes (w : BitVec 24) :
    word3 (BitVec.ofNat 8 (w.toNat / 65536)) (BitVec.ofNat 8 (w.toNat / 256)) (BitVec.ofNat 8 w.toNat) = w := by
  apply BitVec.eq_of_toNat_eq
  have := w.isLt
  simp only [word3, BitVec.toNat_append, BitVec.toNat_ofNat, Nat.reducePow]
  rw [← Nat.shiftLeft_add_eq_or_of_lt (by omega), Nat.shiftLeft_eq, ← Nat.shiftLeft_add_eq_or_of_lt (by omega),
    Nat.shiftLeft_eq]
  omega

/-- Two bytes read as a word and written again are the same bytes (R196). -/
theorem byte2_word2 (a b : Byte) : byte2 (word2 a b).toNat = [a, b] := by
  have ha := a.isLt; have hb := b.isLt
  have : (word2 a b).toNat = a.toNat * 256 + b.toNat := by
    simp only [word2, BitVec.toNat_append]
    rw [← Nat.shiftLeft_add_eq_or_of_lt (by omega), Nat.shiftLeft_eq]
  simp only [byte2, this, List.cons.injEq, and_true]
  constructor <;> apply BitVec.eq_of_toNat_eq <;> simp only [BitVec.toNat_ofNat] <;> omega

/-- Three bytes read as a word and written again are the same bytes (R196). -/
theorem byte3_word3 (a b c : Byte) : byte3 (word3 a b c).toNat = [a, b, c] := by
  have ha := a.isLt; have hb := b.isLt; have hc := c.isLt
  have : (word3 a b c).toNat = a.toNat * 65536 + b.toNat * 256 + c.toNat := by
    simp only [word3, BitVec.toNat_append]
    rw [← Nat.shiftLeft_add_eq_or_of_lt (by omega), Nat.shiftLeft_eq, ← Nat.shiftLeft_add_eq_or_of_lt (by omega),
      Nat.shiftLeft_eq]
    omega
  simp only [byte3, this, List.cons.injEq, and_true]
  refine ⟨?_, ?_, ?_⟩ <;> apply BitVec.eq_of_toNat_eq <;> simp only [BitVec.toNat_ofNat] <;> omega

theorem frameBytes_length (kind : Byte) (p : List Byte) : (frameBytes kind p).length = p.length + 5 := by
  simp [frameBytes]; omega

/-- The check word of a frame as it is built is found good (R188, R196). -/
theorem frameBytes_checkPasses (kind : Byte) (p : List Byte) : checkPasses (frameBytes kind p) = true := by
  have hl := frameBytes_length kind p
  unfold checkPasses
  rw [hl]
  simp only [frameBytes, Bool.and_eq_true, decide_eq_true_eq, beq_iff_eq]
  refine ⟨by omega, ?_⟩
  have hb : p.length + 5 - 2 = (kind :: (byte2 p.length ++ p)).length := by simp; omega
  rw [hb, List.take_left, List.drop_left]

/-- The format test reads back the kind and the payload of a frame as it is built (R188, R196). -/
theorem frameBytes_formatTest {kind : Byte} {p : List Byte} (h₁ : 4 ≤ p.length) (h₂ : p.length ≤ 508)
    (h₃ : payloadForm kind p = true) : formatTest (frameBytes kind p) = .good kind p := by
  have hl := frameBytes_length kind p
  have hw : (word2 (BitVec.ofNat 8 (p.length / 256)) (BitVec.ofNat 8 p.length)).toNat = p.length := by
    have := word2_bytes (BitVec.ofNat 16 p.length)
    simp only [BitVec.toNat_ofNat, Nat.reducePow, Nat.mod_eq_of_lt (show p.length < 65536 by omega)] at this
    rw [this]; simp; omega
  unfold formatTest frameBytes byte2
  simp only [List.cons_append, List.nil_append, hw]
  rw [if_pos]
  · congr 1
    rw [show (p ++ _ : List Byte).length - 2 = p.length by simp, List.take_left]
  · refine ⟨h₁, h₂, by simp, ?_⟩
    rw [show (p ++ _ : List Byte).length - 2 = p.length by simp, List.take_left]
    exact h₃

/-- A frame as it is built is received good (R188, R196). -/
theorem receive_frameBytes {kind : Byte} {p : List Byte} (h₁ : 4 ≤ p.length) (h₂ : p.length ≤ 508)
    (h₃ : payloadForm kind p = true) : receive ⟨frameBytes kind p, false⟩ .endSymbol = .good kind p := by
  unfold receive
  rw [if_neg (by simp [frameBytes_checkPasses])]
  exact frameBytes_formatTest h₁ h₂ h₃

/-- A frame received good is, byte for byte, the frame of its kind and payload, and its payload has the form of its kind (R188). -/
theorem receive_good {f : Arriving} {e : FrameEnd} {kind : Byte} {p : List Byte} (h : receive f e = .good kind p) :
    f.bytes = frameBytes kind p ∧ payloadForm kind p = true ∧ 4 ≤ p.length ∧ p.length ≤ 508 := by
  unfold receive at h
  split at h
  · cases h
  · rename_i h₂
    simp only [not_or, Bool.not_eq_false] at h₂
    have hc := h₂.2.2
    revert h hc
    generalize f.bytes = d
    intro h hc
    unfold formatTest at h
    split at h
    · rename_i k a b rest
      dsimp only at h
      split at h
      · rename_i hf
        simp only [List.length_cons] at hf
        obtain ⟨h4, h5, h6, h7⟩ := hf
        cases h
        have hr : rest.length - 2 = (word2 a b).toNat := by omega
        have hpl : (rest.take (rest.length - 2)).length = (word2 a b).toNat := by rw [List.length_take]; omega
        refine ⟨?_, h7, by omega, by omega⟩
        unfold checkPasses at hc
        simp only [Bool.and_eq_true, decide_eq_true_eq, beq_iff_eq, List.length_cons] at hc
        have e1 : rest.length + 1 + 1 + 1 - 2 = (rest.length - 2) + 1 + 1 + 1 := by omega
        rw [e1] at hc
        simp only [List.take_succ_cons, List.drop_succ_cons] at hc
        unfold frameBytes
        dsimp only
        rw [hpl, byte2_word2]
        simp only [List.cons_append, List.nil_append]
        rw [hc.2, List.take_append_drop]
      · cases h
    · cases h

theorem SampleEntry.bytes_length (x : SampleEntry) : x.bytes.length = 5 := rfl

theorem entries_length (l : List SampleEntry) : (l.flatMap SampleEntry.bytes).length = 5 * l.length := by
  induction l with
  | nil => rfl
  | cons x l ih => simp only [List.flatMap_cons, List.length_append, ih, SampleEntry.bytes_length, List.length_cons]; omega

/-- The entries written are read back (R196). -/
theorem readEntries_bytes (l : List SampleEntry) : readEntries l.length (l.flatMap SampleEntry.bytes) = l := by
  induction l with
  | nil => rfl
  | cons x l ih =>
    simp only [List.flatMap_cons, SampleEntry.bytes, byte3, List.cons_append, List.nil_append, List.length_cons, readEntries,
      word3_bytes, ih]

/-- The entries read are written again as the same bytes, where the bytes are as many as their count says (R196). -/
theorem readEntries_flatMap (n : Nat) (p : List Byte) (h : p.length = 5 * n) :
    (readEntries n p).flatMap SampleEntry.bytes = p ∧ (readEntries n p).length = n := by
  induction n generalizing p with
  | zero => simp at h; simp [h, readEntries]
  | succ n ih =>
    match p, h with
    | c :: x :: y :: z :: q :: rest, h =>
      simp only [List.length_cons] at h
      obtain ⟨h₁, h₂⟩ := ih rest (by omega)
      simp only [readEntries, List.flatMap_cons, h₁, SampleEntry.bytes, byte3_word3, List.length_cons, h₂,
        List.cons_append, List.nil_append, and_self]

theorem Segment.payload_length (g : Segment) : g.payload.length = 4 + 5 * g.entries.length := by
  simp only [Segment.payload, List.length_append, byte1_length, byte2_length, entries_length, List.length_cons,
    List.length_nil]

theorem Segment.payload_form {g : Segment} (h : g.entries.length ≤ 48) : payloadForm 0x01 g.payload = true := by
  have hl := g.payload_length
  simp only [payloadForm, if_true]
  simp only [Segment.payload, byte2, byte1, List.cons_append, List.nil_append] at hl ⊢
  simp only [BitVec.toNat_ofNat, Nat.reducePow, Nat.mod_eq_of_lt (show g.entries.length < 256 by omega), hl]
  simp [h]

theorem fillPayload_length (n : CycleNo) (l : List SampleEntry) : (fillPayload n l).length = 3 + 5 * l.length := by
  simp only [fillPayload, List.length_append, byte1_length, byte2_length, entries_length]

theorem fillPayload_form (n : CycleNo) {l : List SampleEntry} (h₁ : 1 ≤ l.length) (h₂ : l.length ≤ 96) :
    payloadForm 0x02 (fillPayload n l) = true := by
  have hl := fillPayload_length n l
  simp only [fillPayload, byte2, byte1, List.cons_append, List.nil_append] at hl ⊢
  simp only [payloadForm, BitVec.toNat_ofNat, Nat.reducePow, Nat.mod_eq_of_lt (show l.length < 256 by omega), hl]
  simp [h₁, h₂]

theorem LogRecord.bytes_length (r : LogRecord) : r.bytes.length = 14 := rfl

theorem Alert.payload_length (a : Alert) : a.payload.length = 21 := by
  obtain ⟨_, _, _, _, _ | r⟩ := a
  · rfl
  · simp [Alert.payload, LogRecord.bytes_length]

end Sys2Proof.Machine
end

