-- ==== Sys2Proof/WellFormed.lean ====
section
/-! DEFINITION. Which steps can happen on the hardware: checks on the patterns that the rows carry. A row is named by the one event that
the last of its patterns brings about. The other rows have no operand that could be ill formed. The meanings are total and do not rest
on these checks. -/

namespace Sys2Proof

open Machine (Receiver RxEvent symbolOf)

/-- The first event that a line brings to a receiver comes with the line's last pattern, and is of a kind. -/
def brings (up : Bool) (r : Receiver) (kind : RxEvent → Bool) (line : List Pattern) : Bool :=
  match (r.run up (line.map symbolOf)).2 with
  | some (e, []) => kind e
  | _ => false

def isFrame : RxEvent → Bool
  | .frame .. => true
  | _ => false

/-- The receivers from which a row of a frame can begin: UP, with no frame open, or with one that a second START has just opened. -/
def frameStarts : List Receiver := [.quiet, { Receiver.quiet with frame := some ⟨[], false⟩ }]

/-- The line ends the first frame that it brings (R188). -/
def endsFrame (line : List Pattern) : Bool := frameStarts.any (fun r => brings true r isFrame line)

/-- The line ends with the 514th byte of a frame (R188). -/
def endsOverlong (line : List Pattern) : Bool := frameStarts.any (fun r => brings true r (· == .overlong) line)

/-- The line's last pattern completes a run of 64 IDLE, as much of it as the receiver has not yet taken (R187). -/
def endsIdleRun (line : List Pattern) : Bool :=
  (List.range 64).any (fun k => brings false { Receiver.quiet with idleRun := k } (· == .comesUp) line)

/-- The cause can take a receiver DOWN: loss of signal, or a line that ends with a code violation (R187). -/
def canTakeDown : DownCause → Bool
  | .lossOfSignal => true
  | .violations line => line.getLast?.map symbolOf == some .violation

namespace Between

/-- The operands of an event between two samples. -/
def wellFormed : Between → Bool
  | .portDLine line => endsFrame line || endsOverlong line || endsIdleRun line || canTakeDown (.violations line)
  | .transmitEndD down => down.all canTakeDown
  | .portULine line => endsFrame line || endsOverlong line
  | _ => true

end Between

/-- Events between samples are given for a frame on port U alone, at most one list before each of 48 samples and one before the
close, each well formed. -/
def betweenWellFormed (p : Port) (between : List (List Between)) : Bool :=
  (p == .u || between.isEmpty) && decide (between.length ≤ 49) && between.all (fun l => l.all Between.wellFormed)

namespace Instr

/-- The step can happen on the hardware as written. -/
def wellFormed : Instr → Bool
  | .frameReceived p line last between => endsFrame (line ++ [last]) && betweenWellFormed p between
  | .frameOverlong t => endsOverlong t.line
  | .portUp _ line => endsIdleRun line
  | .portDDown cause => canTakeDown cause
  | .portUDown cause => canTakeDown cause
  | .frameTransmitEnd e => e.down.all canTakeDown
  | _ => true

end Instr

end Sys2Proof
end

