-- ==== Sys2Proof/Tests/Slice0.lean ====
section
/-! SUPPORT. The model's own tests: the smoke tests of WellFormed, the spec's worked figures, one small step here and there, and for
every statement with hypotheses a state and operands that meet them. -/

namespace Sys2Proof.Tests

set_option Elab.async false

open Sys2Proof Sys2Proof.Machine

/-! ### Helpers -/

/-- The next state of an outcome. -/
def after : Out → State
  | .next t => t
  | .fault r => nomatch r
  | .refused _ => .reset

/-- Both ports UP, nothing else done since power-on. -/
def started : State := { State.reset with upU := true, upD := true }

/-- A frame of no bytes is on port D's line. -/
def busy (s : State) : State := { s with upD := true, txD := some ⟨.passed [], false, false⟩ }

/-- A unicast command alone in the FIFO. -/
def holding (code : Byte) (args : List Byte) (s : State) : State := { s with cmdFifo := [⟨false, 7, code, args⟩] }

/-- That command. -/
def one (code : Byte) (args : List Byte) : Command := ⟨false, 7, code, args⟩

/-- The patterns of a frame of some bytes up to its END. -/
def body (l : List Byte) : List Pattern := (lineOf .minus l).dropLast

/-- The END of that frame. -/
def lastOf (l : List Byte) : Pattern := (lineOf .minus l).getLast (List.cons_ne_nil _ _)

/-- The row of a frame of some bytes on a port. -/
def frameRow (p : Port) (l : List Byte) (between : List (List Between)) : Instr := .frameReceived p (body l) (lastOf l) between

/-- A pattern of no byte and no control symbol. -/
def wrong : Pattern := 0

/-- What a quiet receiver keeps after some symbols without a violation, no frame open. -/
def afterSymbols (n : Nat) : Receiver := { Receiver.quiet with recent := List.replicate n false }

/-- Channel 30 of the worked examples (03, 3.9 and 04, 4.10). -/
def entry30 : ChannelEntry :=
  { ChannelEntry.default with
    mode := .guard, gain := 24576, offset := BitVec.ofInt 24 (-100000), lowLimit := BitVec.ofInt 24 (-400000),
    highLimit := 400000, warnLow := BitVec.ofInt 24 (-300000), warnHigh := 300000, rateLimit := 60000, recovery := 3,
    reaction := .hold, trip := true, group := some 1 }

/-- A device in ACTIVE with channel 30 of the examples in both banks, its record CLEAN with a rate baseline. -/
def active30 : State :=
  let bank := { Bank.default with channels := Bank.default.channels.set 30 entry30 }
  { started with
    tables := { TableStore.powerOn with bankA := bank, bankB := bank, deviceMode := .active }
    channels := started.channels.set 30 { ChannelRecord.fresh .clean with rateBase := some 200000 } }

/-- That device in OPEN at cycle 202. -/
def open202 : State :=
  { active30 with
    tracker := { active30.tracker with state := .opened, lastCycle := 202, timer := some 1000 } }

/-- A device whose group 1 is TRIPPED by the TRIP command. -/
def tripped1 : State :=
  { open202 with
    groups := open202.groups.set 1 ⟨.tripped, some .command, none, some 202, 0⟩
    faultLow := true }

/-- The status and the result of the one reply held after a row has run on a busy line. -/
def replyOf (i : Instr) (s : State) : Option (Status × Result) :=
  (after (exec i (busy s))).replies.head?.map fun r => (r.status, r.result)

/-! ### WellFormed refuses each ill-formed term -/

/-- A frame that is not ended by its last pattern (R188). -/
theorem test_wellFormed_end :
    (Instr.frameReceived .u [startPattern .minus, dataPattern .plus 1] (dataPattern .plus 2) []).wellFormed = false ∧
      (Instr.frameReceived .u [startPattern .minus, finishPattern .plus] (idlePattern .minus) []).wellFormed = false := by decide +kernel

/-- Four code violations within 64 symbols take the port DOWN before the frame ends (R187). -/
theorem test_wellFormed_violations :
    (Instr.frameReceived .u [startPattern .minus, wrong, wrong, dataPattern .minus 1, wrong, wrong] (finishPattern .minus)
      []).wellFormed = false := by decide +kernel

/-- A frame that has not reached its 514th byte is not overlong (R188). -/
theorem test_wellFormed_overlong : (Instr.frameOverlong ⟨.d, lineOf .minus [1, 2, 3]⟩).wellFormed = false := by decide +kernel

/-- Port D's frames have no samples to interleave. -/
theorem test_wellFormed_between_port : (frameRow .d [] [[.tripNFall]]).wellFormed = false := by decide +kernel

/-- A segment has at most 48 samples, and so 49 places between them. -/
theorem test_wellFormed_between_length : (frameRow .u [] (List.replicate 50 [])).wellFormed = false := by decide +kernel

/-- What port D takes between two samples brings something about. -/
theorem test_wellFormed_between_event :
    (frameRow .u [] [[.portDLine []]]).wellFormed = false ∧ (frameRow .u [] [[.portULine [wrong]]]).wellFormed = false ∧ (frameRow .u [] [[.transmitEndD (some (.violations []))]]).wellFormed = false :=
  by decide +kernel

/-- A run of 63 IDLE brings no port UP, and symbols that end with no violation take none DOWN (R187). -/
theorem test_wellFormed_link :
    (Instr.portUp .u (wrong :: List.replicate 63 (idlePattern .minus))).wellFormed = false ∧
      (Instr.portUp .u (List.replicate 65 (idlePattern .minus))).wellFormed = false ∧
      (Instr.portDDown (.violations [wrong, idlePattern .minus])).wellFormed = false ∧
      (Instr.portUDown (.violations [])).wellFormed = false ∧
      (Instr.frameTransmitEnd ⟨.d, some (.violations [])⟩).wellFormed = false := by decide +kernel

/-- What is well formed is let through. -/
theorem test_wellFormed_accepts :
    (frameRow .u [1, 2, 3] [[.executorTakes, .transmitEndD (some .lossOfSignal)], []]).wellFormed = true ∧
      (Instr.frameReceived .d [startPattern .minus, wrong] (startPattern .plus) []).wellFormed = true ∧
      (Instr.portUp .u (wrong :: List.replicate 64 (idlePattern .minus))).wellFormed = true ∧
      (Instr.portUDown (.violations [wrong])).wellFormed = true := by decide +kernel

/-! ### Figures of the spec -/

/-- 00_scope.md, "Numbers and values", and 02, 2.3. -/
theorem test_ahead : ahead 3 65534 = true ∧ ahead 3 65530 = true ∧ ahead 65529 65530 = false ∧ ahead 32762 65530 = false ∧
    reached 10 10 = true ∧ reached 10 9 = true ∧ reached 10 11 = false := by decide

/-- The table of R56. -/
theorem test_conditioned :
    let at_ (r g o : Int) :=
      (conditioned { ChannelEntry.default with gain := BitVec.ofInt 16 g, offset := BitVec.ofInt 24 o } (BitVec.ofInt 24 r)).toInt
    at_ 3 8192 0 = 2 ∧ at_ (-3) 8192 0 = -2 ∧ at_ 1000 16712 0 = 1020 ∧ at_ 240001 24576 (-100000) = 260002 ∧
      at_ 8000000 24576 (-5000000) = 7000000 ∧ at_ 8000000 24576 0 = 8388607 ∧ at_ (-8388608) (-32768) 0 = 8388607 ∧
      at_ (-8388608) (-32768) (-8388608) = 8388607 ∧ at_ 123456 0 (-7) = -7 := by decide +kernel

/-- The check word of the bytes 31h to 39h, from the published tables of this polynomial (x^16 + x^15 + x^2 + 1, register FFFFh). -/
theorem test_checkWord : checkWord [0x31, 0x32, 0x33, 0x34, 0x35, 0x36, 0x37, 0x38, 0x39] = 0xAEE7 := by decide +kernel

/-- Patterns of the published tables of 8b/10b: D0.0, D21.5, D17.7 and D11.7 with their other last four bits, and the three control
codes; K28.1 and a pattern of seven ones are code violations (R186). -/
theorem test_line_code :
    [symbolOf 0b1001110100, symbolOf 0b0110001011, symbolOf 0b1010101010, symbolOf 0b1000110111, symbolOf 0b1101001000] =
        [.data 0x00, .data 0x00, .data 0xB5, .data 0xF1, .data 0xEB] ∧
      [symbolOf 0b0011111010, symbolOf 0b1101101000, symbolOf 0b0100010111] = [.idle, .start, .finish] ∧
      [symbolOf 0b0011111001, symbolOf 0b1111111000] = [.violation, .violation] := by decide +kernel

/-- The running disparity chooses the pattern: D0.0 twice behind START, and END (R186, from the published tables). -/
theorem test_running_disparity : lineOf .minus [0, 0] = [0b1101101000, 0b1001110100, 0b1001110100, 0b1011101000] := by decide +kernel

/-- The items of REARM ALL number rearmed first, that of REARM of one group already ARMED (R114, R115, R197). -/
theorem test_rearm_bytes : RearmItem.rearmed.itemBytes = [0, 0] ∧ RearmItem.alreadyArmed.itemBytes = [0, 1] ∧
    RearmItem.alreadyArmed.bytes = [0] ∧ RearmItem.rearmed.bytes = [1] := by decide

/-- A SEG of 48 samples is 249 bytes and occupies its line for 25.1 µs, a FILL of one entry 13 bytes and 1.5 µs (11, 11.7). -/
theorem test_lineTime : (Frame.seg ⟨90, 2, List.replicate 48 ⟨0, 0, 0⟩⟩).lineTime = 25100 ∧
    (Frame.fill 90 [⟨0, 0, 3⟩]).lineTime = 1500 := by decide +kernel

/-- Records in their 14 bytes, written out from R197's table: a FAULT of channel 30, a TRIP by PIN with no cycle, an SEQ SKIP. -/
theorem test_record_bytes :
    (⟨0x0102, some 203, .fault 30 { ClassSet.none with high := true } (some 410000) (some 1)⟩ : LogRecord).bytes =
        [1, 2, 0, 0x1F, 0, 203, 30, 1, 0x06, 0x41, 0x90, 1, 0, 0] ∧
      (⟨1063, none, .trip 5 .pin none⟩ : LogRecord).bytes = [4, 0x27, 3, 0x06, 0, 0, 5, 1, 0, 0, 0, 0, 0, 0] ∧
      (⟨7, some 199, .seq .skip (some 3) (some (203, 1))⟩ : LogRecord).bytes =
        [0, 7, 6, 0x2F, 0, 199, 0, 1, 0, 0, 3, 0, 0, 203] := by decide +kernel

/-- A LOG-READ of four records carries 60 bytes of result, each record 14 (R197). -/
theorem test_logRead_bytes : (Result.logRecords 4 0 (List.replicate 4 ⟨1000, some 5, .dup 7⟩)).bytes.length = 60 := by decide +kernel

/-- Cycles 202 and 203 of channel 30 (03, 3.9). -/
theorem test_checks_of_channel_30 :
    checkOutcome entry30 (some 200000) ⟨30, 240001, 0⟩ = ⟨.ofChecks false false true, 240001, .ok, some 260002⟩ ∧
      checkOutcome entry30 (some 200000) ⟨30, 230000, 1⟩ = ⟨.none, 230000, .sat, some 245000⟩ ∧
      checkOutcome entry30 (some 312500) ⟨30, 310000, 2⟩ = ⟨.qualOnly, 310000, .bad, none⟩ := by decide +kernel

/-! ### One step -/

/-- A SEG of this cycle and segment byte, with these entries, received on port U. -/
def segRow (cycle : CycleNo) (segByte : Byte) (entries : List SampleEntry) : Instr :=
  frameRow .u (Frame.seg ⟨cycle, segByte, entries⟩).bytes []

/-- 02, 2.10, steps 1 and 3: in NOSYNC index 1 is turned away and index 0 synchronises. -/
theorem test_synchronising :
    (after (exec (segRow 700 1 []) started)).counters.unsyncCount = 1 ∧
      (after (exec (segRow 700 1 []) started)).tracker.state = .nosync ∧
      (after (exec (segRow 701 0 []) started)).tracker.state = .opened ∧
      (after (exec (segRow 701 0 []) started)).tracker.lastCycle = 701 := by decide +kernel

/-- A sample of channel 30 in cycle 202 raises RATE, its history takes a violating verdict, and it is emitted with its conditioned
value, for hold_suspect is no (03, 3.9; R88 row 6). -/
theorem test_sample_of_channel_30 :
    ((after (exec (segRow 202 1 [⟨30, 240001, 0⟩]) (busy open202))).channel 30).history = [.violating] ∧
      ((after (exec (segRow 202 1 [⟨30, 240001, 0⟩]) (busy open202))).channel 30).rateBase = some 200000 ∧
      (after (exec (segRow 202 1 [⟨30, 240001, 0⟩]) (busy open202))).forward.map (·.frame) =
        [.seg ⟨202, 1, [⟨30, 260002, 0⟩]⟩] := by decide +kernel

/-- A second sample of a channel in a cycle is removed (R48, R50). -/
theorem test_duplicate_removed :
    (after (exec (segRow 202 1 [⟨30, 200000, 0⟩, ⟨200, 5, 1⟩, ⟨30, 200001, 0⟩]) (busy open202))).forward.map (·.frame) =
      [.seg ⟨202, 1, [⟨30, 200000, 0⟩, ⟨200, 5, 1⟩]⟩] := by decide +kernel

/-- A segment is complete with its last sample's work: on an idle line it begins transmission before a command that comes ahead of its
close, and the close marks it on the line (R34, R189, R192). -/
theorem test_complete_before_close :
    let row := frameRow .u (Frame.seg ⟨202, 0x81, [⟨30, 200000, 0⟩]⟩).bytes [[], [.executorTakes]]
    let t := after (exec row { holding 0x01 [] open202 with slotOwed := true })
    t.txD = some ⟨.seg ⟨202, 0x81, [⟨30, 200000, 0⟩]⟩, true, false⟩ ∧ t.replies.length = 1 ∧ t.tracker.state = .closed := by decide +kernel

/-- A foreign frame of port U that comes before the work on a closing segment stands between that segment and the FILL of its close; a SEG
that would reach the tracker is not taken there (R41, R189). -/
theorem test_foreign_before_fill :
    let other := frameBytes 0x06 [1, 2, 3, 4]
    let row := frameRow .u (Frame.seg ⟨202, 0x81, []⟩).bytes
      [[.portULine (lineOf .minus other), .portULine (lineOf .minus (Frame.seg ⟨203, 0, []⟩).bytes)]]
    (after (exec row (busy open202))).forward.map (·.frame) = [.seg ⟨202, 0x81, []⟩, .passed other, .fill 202 [⟨30, 0, 3⟩]] := by
  decide +kernel

/-- A TRIP_N fall between two samples trips the pin_bound group of channel 30: the sample before it stands and the one behind it is forced.
After a RESET RUNTIME a further sample of that channel is a duplicate all the same (R65, R95). -/
theorem test_events_between_samples :
    let g : Segment := ⟨202, 1, [⟨200, 7, 0⟩, ⟨30, 200000, 0⟩, ⟨30, 200000, 0⟩]⟩
    let s := busy (holding 0x60 [0] open202)
    let t := after (exec (frameRow .u (Frame.seg g).bytes [[], [.tripNFall], [.executorTakes]]) s)
    t.forward = [⟨.seg { g with entries := [⟨200, 7, 0⟩, ⟨30, 0, 3⟩] }, false, true, false, false⟩] ∧
      (t.group 1).cause = some .pin ∧ t.channel 30 = .fresh .clean ∧ t.cmdFifo = [] := by decide +kernel

/-- The timer runs out in OPEN: channel 30 is filled from its safe_value, for last_good is absent, and the FILL is named to the Arbiter
(R35, R97 row 4, R99). -/
theorem test_timer_fills :
    (after (exec .cycleTimerExpiry (busy open202))).forward = [⟨.fill 202 [⟨30, 0, 3⟩], true, true, true, false⟩] ∧
      (after (exec .cycleTimerExpiry (busy open202))).tracker.state = .closed := by decide +kernel

/-- The end of a frame that ends a cycle lets the waiting reply pass before the forward head (11, 11.7, steps 3 and 4). -/
theorem test_slot_owed :
    let s := { started with
      txD := some ⟨.fill 90 [], true, false⟩
      forward := [⟨.passed [1], false, true, false, false⟩]
      replies := [⟨6, 7, 2, .ok, .empty⟩, ⟨6, 8, 2, .ok, .empty⟩] }
    (after (exec (.frameTransmitEnd ⟨.d, none⟩) s)).txD = some ⟨.reply ⟨6, 7, 2, .ok, .empty⟩, false, false⟩ ∧
      (after (exec (.frameTransmitEnd ⟨.d, none⟩) s)).slotOwed = false ∧
      (after (exec (.frameTransmitEnd ⟨.d, none⟩) s)).replies.length = 1 := by decide +kernel

/-- Port D fails after the end of a frame and before the next choice: the ending frame is discarded at its turn and slot owed set. Had the
choice been made first, the frame would be cut off and slot owed cleared (R192, R194). -/
theorem test_down_before_the_choice :
    let s := { started with txD := some ⟨.passed [], false, false⟩, forward := [⟨.fill 90 [], true, true, true, false⟩] }
    (after (exec (.frameTransmitEnd ⟨.d, some .lossOfSignal⟩) s)).slotOwed = true ∧
      (after (exec (.portDDown .lossOfSignal) (after (exec (.frameTransmitEnd ⟨.d, none⟩) s)))).slotOwed = false := by decide +kernel

/-- Two violations in one frame and two in the next, within 64 symbols: the first frame is counted, the second takes the port DOWN
(R187). -/
theorem test_violations_across_frames :
    let row := Instr.frameReceived .d [startPattern .minus, wrong, wrong] (finishPattern .minus) []
    ((after (exec row started)).counters.dCheckErrors = 1 ∧ (after (exec row started)).upD = true) ∧
      (after (exec row (after (exec row started)))).counters.dCheckErrors = 1 ∧
      (after (exec row (after (exec row started)))).upD = false := by decide +kernel

/-- A fall of TRIP_N trips the pin_bound groups, all eight by default (R11, R108). -/
theorem test_trip_line :
    (after (exec .tripNFall active30)).faultLow = true ∧
      ((after (exec .tripNFall active30)).group 5).cause = some .pin := by decide +kernel

/-- The worked write of 01, 1.8: mode GUARD, gain 1.02, four limits, trip yes, group 2, to channel 12 of staging bank B. -/
theorem test_write_channel :
    let s := holding 0x11
      [12, 1, 2, 4, 0x41, 0x48, 7, 0x09, 0x27, 0xC0, 6, 0xF6, 0xD8, 0x40, 9, 0x07, 0xA1, 0x20, 8, 0xF8, 0x5E, 0xE0, 18, 1, 19, 2] started
    replyOf .writeChannel s = some (.ok, .empty) ∧
      (after (exec .writeChannel s)).tables.bankB.channels[12] =
        { ChannelEntry.default with
          mode := .guard, gain := 16712, lowLimit := BitVec.ofInt 24 (-600000), highLimit := 600000,
          warnLow := BitVec.ofInt 24 (-500000), warnHigh := 500000, trip := true, group := some 2 } ∧
      (after (exec .writeChannel s)).tables.marks.channels[12] = true ∧
      (after (exec .writeChannel s)).tables.bankA.channels[12] = .default := by decide +kernel

/-- 07, 7.7, steps 3 and 4. -/
theorem test_commit :
    replyOf .commit (holding 0x20 [1, 0, 50] started) = some (.noSync, .empty) ∧
      replyOf .commit (holding 0x20 [0] started) = some (.ok, .target .next) ∧
      (after (exec .commit (holding 0x20 [0] started))).tables.commit = some .next := by decide +kernel

/-- 09, 9.6, the LIMIT test of step 1, here in NOSYNC, where it runs at once: 340,000 is conditioned to 410,000 and raises HIGH. -/
theorem test_limit_test :
    replyOf .test (holding 0x50 [0, 30, 0x05, 0x30, 0x20, 1] active30) = some (.ok, .testRan) ∧
      (after (exec .test (holding 0x50 [0, 30, 0x05, 0x30, 0x20, 1] active30))).test.last =
        ⟨.pass, some .limit, some 30, some (.classes (.ofChecks true false false)), none, none⟩ := by decide +kernel

/-- 06, 6.7, step 4: while member channel 30 is FAULTED, REARM 1 names it. -/
theorem test_rearm_names_member :
    replyOf .rearm (holding 0x33 [1]
      { tripped1 with channels := tripped1.channels.set 30 (ChannelRecord.fresh .faulted) }) =
      some (.notReady, .rearmItem (.notReady (.member 30))) ∧
    replyOf .rearm (holding 0x33 [1] tripped1) = some (.ok, .rearmItem .rearmed) ∧
    (after (exec .rearm (holding 0x33 [1] tripped1))).faultLow = false := by decide +kernel

/-- 10, 10.9: after RESET DEVICE the FIFO is empty and the reply list holds the reset's reply alone. -/
theorem test_reset_device :
    let s := busy { tripped1 with
      cmdFifo := [one 0x60 [2], one 0x02 []]
      replies := [⟨0, 40, 2, .ok, .empty⟩] }
    (after (exec .resetDevice s)).replies = [⟨0, 7, 0x60, .ok, .scope .device⟩] ∧
      (after (exec .resetDevice s)).cmdFifo = [] ∧ (after (exec .resetDevice s)).faultLow = false ∧
      (after (exec .resetDevice s)).tracker.state = .nosync := by decide +kernel

/-- Rows that answer: IDENTIFY, LOG-ACK of no record, TRIP of all groups, LOG-CLEAR, BYPASS in BYPASS, TEST-RESULT, an unknown code
(R110, R138, R148, R149, R167, R175, R176). -/
theorem test_replies :
    replyOf .identify (holding 0x01 [] started) = some (.ok, .identity 0x0D52 0x0096 1 0) ∧
      replyOf .logAck (holding 0x41 [3, 0xE6] started) = some (.badArg, .empty) ∧
      replyOf .trip (holding 0x32 [1] tripped1) = some (.ok, .tripItems [.restarted]) ∧
      replyOf .logClear (holding 0x42 [] started) = some (.ok, .logCleared 0 0) ∧
      replyOf .bypass (holding 0x22 [] started) = some (.mode, .empty) ∧
      replyOf .testResult (holding 0x51 [0] started) = some (.ok, .testRecord .powerOn) ∧
      replyOf .unknownCommand (holding 0x7F [1, 2] started) = some (.unknown, .empty) := by decide +kernel

/-- The status byte and the reply frame of IDENTIFY, byte for byte before the check word (R172, R176, R196). -/
theorem test_reply_bytes :
    ((Frame.reply ⟨6, 9, 1, .ok, .identity 0x0D52 0x0096 1 6⟩).bytes.take 13) =
      [4, 0, 10, 6, 9, 1, 0, 0x0D, 0x52, 0x00, 0x96, 1, 6] := by decide +kernel

/-! ### Witnesses: for each statement with hypotheses, states and operands that meet them, clause by clause -/

/-- A command alone in the FIFO is at its head and may be taken. -/
theorem atHead_holding (code : Byte) (args : List Byte) (s : State) (h : s.replies.length < 8) :
    AtHead (holding code args s) (one code args) [] code := ⟨rfl, rfl, Or.inr h⟩

/-- The boundary of the room for replies: seven are held. -/
theorem atHead_seven (code : Byte) (args : List Byte) :
    AtHead (holding code args { started with replies := List.replicate 7 ⟨0, 1, 2, .ok, .empty⟩ }) (one code args) [] code :=
  atHead_holding code args _ (by decide)

/-- A broadcast may be taken whatever the replies. -/
theorem atHead_broadcast :
    AtHead { started with cmdFifo := [⟨true, 7, 0x32, [255]⟩], replies := List.replicate 8 ⟨0, 1, 2, .ok, .empty⟩ }
      ⟨true, 7, 0x32, [255]⟩ [] 0x32 := ⟨rfl, rfl, Or.inl rfl⟩

theorem body_lastOf (l : List Byte) : body l ++ [lastOf l] = lineOf .minus l := List.dropLast_append_getLast _

/-- A port that is UP, its receiver quiet, is delivered the frame that a frame row brings. -/
theorem delivers {s : State} {p : Port} {l : List Byte} {n : Nat} (hu : s.up p = true) (hr : s.rx p = .quiet)
    (h : Receiver.quiet.run true ((lineOf .minus l).map symbolOf) = (afterSymbols n, some (.frame ⟨l, false⟩ .endSymbol, []))) :
    Delivers s p (body l ++ [lastOf l]) ⟨l, false⟩ .endSymbol (afterSymbols n) := by
  rw [body_lastOf]; exact ⟨hu, by unfold Brings; rw [hu, hr]; exact h⟩

/-- A part whose receiver has taken the bytes of a frame in the port's earlier rows. -/
def arrived (p : Port) (l : List Byte) (s : State) : State := s.setRx p { Receiver.quiet with frame := some ⟨l, false⟩ }

/-- The END alone completes that frame. -/
theorem delivers_end {s : State} {p : Port} (hu : s.up p = true) (l : List Byte) :
    Delivers (arrived p l s) p ([] ++ [finishPattern .minus]) ⟨l, false⟩ .endSymbol (afterSymbols 1) := by
  refine ⟨by simp [arrived, hu], ?_⟩
  have h : [finishPattern .minus].map symbolOf = [.finish] := by decide +kernel
  unfold Brings
  rw [List.nil_append, h, arrived, State.setRx_rx, State.setRx_up, hu]
  rfl

theorem witness_StepRunsTheFrontCommand : State.reset.pending = [] := rfl

theorem witness_CycleParametersTakeTheirDefaults :
    AtHead (holding 0x60 [2] open202) (one 0x60 [2]) [] 0x60 ∧ (one 0x60 [2]).args = [2] :=
  ⟨atHead_holding _ _ _ (by decide), rfl⟩

theorem witness_AddressAndActiveBankChangeOnlyWhereSaid :
    ((∀ straps level, Instr.tripNFall ≠ .powerOnReset straps level) ∧
      exec .tripNFall active30 = .next (after (exec .tripNFall active30)) ∧ Instr.tripNFall ≠ .resetDevice ∧
      ∀ r f ending rest, (active30.rx .u).run (active30.up .u) ((takenU .tripNFall).map symbolOf) ≠ (r, some (.frame f ending, rest))) ∧
      Delivers open202 .u (body (Frame.seg ⟨202, 1, []⟩).bytes ++ [lastOf (Frame.seg ⟨202, 1, []⟩).bytes])
        ⟨(Frame.seg ⟨202, 1, []⟩).bytes, false⟩ .endSymbol (afterSymbols 11) ∧
      (∀ l ∈ ([[.tripNFall]] : List (List Between)), Between.executorTakes ∉ l) ∧
      ∀ p, receive ⟨(Frame.seg ⟨202, 1, []⟩).bytes, false⟩ .endSymbol = .good 0x01 p →
        ¬ OpensCycle open202 (readSegment p).cycle (readSegment p).index := by
  refine ⟨⟨nofun, rfl, nofun, nofun⟩, delivers rfl rfl (by decide +kernel), by decide, fun p h => ?_⟩
  have hp : p = (Segment.mk 202 1 []).payload := by
    have : receive ⟨(Frame.seg ⟨202, 1, []⟩).bytes, false⟩ .endSymbol = .good 0x01 (Segment.mk 202 1 []).payload := by decide +kernel
    exact (Reception.good.inj (h.symm.trans this)).2
  subst hp
  unfold OpensCycle
  decide +kernel

theorem witness_RefusedCommandChangesNothing :
    catalogue 0x20 = some runCommit ∧ (runCommit [1, 0, 50] started).status ≠ .ok := ⟨rfl, by decide +kernel⟩

theorem witness_ConditioningIsExact :
    raisesQual entry30 (readQuality 2) = true ∧ raisesQual entry30 (readQuality 0) = false ∧
      (240001 : Sample).toInt * entry30.gain.toInt % 16384 = 8192 := by decide +kernel

theorem witness_RateRaisedExactlyWhen : (checkOutcome entry30 (some 200000) ⟨30, 240001, 0⟩).conditioned = some 260002 ∧
    (checkOutcome entry30 none ⟨30, 240001, 0⟩).conditioned = some 260002 := by decide +kernel

theorem witness_QualityAndLimitsDecideTheClasses :
    (checkOutcome entry30 none ⟨30, 400000, 3⟩).classes.qual = true ∧
      (checkOutcome entry30 none ⟨30, 333334, 0⟩).conditioned = some 400001 ∧ entry30.lowLimit.toInt ≤ entry30.highLimit.toInt := by
  decide +kernel

theorem witness_PortUpAndTransmitEndTouchOnlyTheirPort :
    let nearly := { State.reset with rxU := { Receiver.quiet with idleRun := 63 } }
    (nearly.up .u = false ∧ (nearly.rx .u).idleRun ≤ 63 ∧ IdleRun (runWith (nearly.rx .u) [idlePattern .plus])) ∧
      (State.reset.up .d = false ∧ ¬ IdleRun (runWith (State.reset.rx .d) (List.replicate 63 (idlePattern .plus)))) ∧
      ({ started with txD := some ⟨.passed [], true, false⟩ } : State).txD = some ⟨.passed [], true, false⟩ ∧ started.txD = none :=
  ⟨⟨rfl, by decide, [], [], by decide +kernel⟩,
    ⟨rfl, fun ⟨a, b, h⟩ => by have := congrArg List.length h; simp [runWith, State.reset, State.rx, Receiver.quiet] at this; omega⟩,
    rfl, rfl⟩

/-- A receiver of a port that is UP, with three violations behind the last 60 symbols: the longest span over which R187 counts four. -/
def threeWrong : Receiver := { Receiver.quiet with recent := List.replicate 60 false ++ List.replicate 3 true }

/-- Both ports UP with such receivers. -/
def failing (s : State) : State := { s with upU := true, upD := true, rxU := threeWrong, rxD := threeWrong }

theorem threeWrong_down : threeWrong.run true ([wrong].map symbolOf) = (.quiet, some (.goesDown, [])) := by decide +kernel

theorem threeWrong_quiet : threeWrong.run true ([idlePattern .minus, wrong].map symbolOf) =
    ({ Receiver.quiet with recent := true :: false :: (List.replicate 60 false ++ [true]) }, none) := by decide +kernel

theorem failing_down (s : State) (p : Port) : Brings (failing s) p [wrong] .goesDown .quiet := by
  cases p <;> exact threeWrong_down

/-- After one IDLE the oldest of the three is out of reach. -/
theorem failing_quiet (s : State) (p : Port) : TakesQuietly (failing s) p [idlePattern .minus, wrong]
    { Receiver.quiet with recent := true :: false :: (List.replicate 60 false ++ [true]) } := by
  cases p <;> exact threeWrong_quiet

/-- A part whose forward queue holds a FILL with the ending mark. -/
def queued : State := { started with forward := [⟨.fill 5 [⟨30, 0, 3⟩], true, true, true, false⟩, ⟨.passed [1], false, true, false, false⟩] }

theorem queued_settled : ForwardSettled queued := by unfold ForwardSettled; decide +kernel

theorem witness_PortDDownCutsOffAndEmpties :
    (SignalFails queued .d .lossOfSignal ∧ SignalFails (failing queued) .d (.violations [wrong]) ∧ queued.upD = true ∧
        (failing queued).upD = true ∧ ForwardSettled queued ∧ ForwardSettled (failing queued)) ∧
      ((failing queued).rxD.recent.length ≤ 63 ∧
        TakesQuietly (failing queued) .d [idlePattern .minus, wrong]
          { Receiver.quiet with recent := true :: false :: (List.replicate 60 false ++ [true]) }) ∧
      State.reset.upD = false :=
  ⟨⟨Or.inl rfl, Or.inr ⟨_, _, rfl, failing_down _ _⟩, rfl, rfl, queued_settled, queued_settled⟩, ⟨by decide, failing_quiet _ _⟩, rfl⟩

/-- A log of some records. -/
def logOf (n : Nat) : FaultLog := ⟨List.replicate n ⟨0, none, .linkRestored⟩, BitVec.ofNat 16 n, 0⟩

theorem witness_PortUDownLosesTheLink :
    (∀ s : State, (failing s).upU = true ∧ (failing s).rxU.recent.length ≤ 63 ∧
        TakesQuietly (failing s) .u [idlePattern .minus, wrong]
          { Receiver.quiet with recent := true :: false :: (List.replicate 60 false ++ [true]) } ∧
        SignalFails (failing s) .u (.violations [wrong]) ∧ SignalFails s .u .lossOfSignal) ∧
      State.reset.upU = false ∧ (started.upU = true ∧ started.tracker.state = .nosync) ∧
      (open202.upU = true ∧ open202.tracker.state ≠ .nosync ∧ ({ open202 with log := logOf 55 } : State).log.records.length ≤ 55) ∧
      open202.tables.deviceMode = .active ∧ (open202.groupEntry 0).linkBound = true :=
  ⟨fun s => ⟨rfl, by change threeWrong.recent.length ≤ 63; decide, failing_quiet s .u, Or.inr ⟨_, _, rfl, failing_down s .u⟩, Or.inl rfl⟩,
    rfl, ⟨rfl, rfl⟩, by decide +kernel, rfl, by decide +kernel⟩

/-- A receiver within a frame of 513 bytes. -/
def fullFrame : Receiver := { Receiver.quiet with frame := some ⟨List.replicate 513 0, false⟩ }

theorem fullFrame_overlong : fullFrame.run true ([dataPattern .minus 0].map symbolOf) = (afterSymbols 1, some (.overlong, [])) := by
  decide +kernel

theorem witness_BadFramesAreOnlyCounted :
    (∀ p : Port, ({ started with rxU := fullFrame, rxD := fullFrame } : State).up p = true ∧
        Brings { started with rxU := fullFrame, rxD := fullFrame } p [dataPattern .minus 0] .overlong (afterSymbols 1)) ∧
      (∀ p : Port,
        Delivers started p (body [1, 2, 3] ++ [lastOf [1, 2, 3]]) ⟨[1, 2, 3], false⟩ .endSymbol (afterSymbols 5) ∧
        Delivers started p (body (frameBytes 0x03 [0, 1, 1, 5]) ++ [lastOf (frameBytes 0x03 [0, 1, 1, 5])])
          ⟨frameBytes 0x03 [0, 1, 1, 5], false⟩ .endSymbol (afterSymbols 11)) ∧
      (receive ⟨[1, 2, 3], false⟩ .endSymbol = .badCheck ∧
        receive ⟨frameBytes 0x03 [0, 1, 1, 5], false⟩ .endSymbol = .badFormat) ∧
      (∀ p : Port, Brings (failing started) p ([] ++ [wrong]) .goesDown .quiet) ∧
      ∀ p : Port, State.reset.up p = false ∧ TakesQuietly State.reset p (body [1, 2, 3] ++ [lastOf [1, 2, 3]]) .quiet := by
  refine ⟨fun p => ⟨by cases p <;> rfl, by cases p <;> exact fullFrame_overlong⟩,
    fun p => ⟨delivers (by cases p <;> rfl) (by cases p <;> rfl) (by decide +kernel),
      delivers (by cases p <;> rfl) (by cases p <;> rfl) (by decide +kernel)⟩, by decide +kernel, fun p => failing_down _ p, fun p => ?_⟩
  have h : Receiver.quiet.run false ((body [1, 2, 3] ++ [lastOf [1, 2, 3]]).map symbolOf) = (.quiet, none) := by decide +kernel
  cases p <;> exact ⟨rfl, h⟩

/-- A second START breaks a frame off, and a violation fails it, whatever its bytes (R188). -/
theorem test_broken_off : receive ⟨frameBytes 0x06 [1, 2, 3, 4], false⟩ .secondStart = .badCheck ∧
    receive ⟨frameBytes 0x06 [1, 2, 3, 4], true⟩ .endSymbol = .badCheck ∧
    receive ⟨frameBytes 0x06 [1, 2, 3], false⟩ .endSymbol = .badFormat := by decide +kernel

theorem witness_SegmentSurvivesTheWire :
    (threeWrong.frame = none ∧ threeWrong.recent.length ≤ 63 ∧ threeWrong.recent.count true ≤ 3 ∧
        (List.replicate 513 (0 : Byte)).length ≤ 513) ∧
      (⟨90, 130, List.replicate 48 ⟨1, 2, 3⟩⟩ : Segment).entries.length ≤ 48 ∧
      receive ⟨frameBytes 0x01 [0, 90, 1, 0], false⟩ .endSymbol = .good 0x01 [0, 90, 1, 0] ∧
      (∀ n ∈ [1, 96], 1 ≤ (List.replicate n (⟨30, 0, 3⟩ : SampleEntry)).length ∧
        (List.replicate n (⟨30, 0, 3⟩ : SampleEntry)).length ≤ 96) ∧
      ((⟨6, none, 64, 65535, none⟩ : Alert).logCount ≤ 64 ∧ (⟨6, none, 64, 65535, none⟩ : Alert).lost ≤ 65535) ∧
      (Result.trippedGroups (List.replicate 503 0)).bytes.length ≤ 504 := by decide +kernel

/-- The three clauses of port U's transmitter: a frame waits at a free line, at a busy one, and at a port that is DOWN. -/
theorem witness_TransmittersTouchOnlyTheirQueues :
    let s := { started with ret := [[1], [2]] }
    (s.upU = true ∧ s.txU = none ∧ s.ret = [1] :: [[2]]) ∧ ({ s with txU := some [7] } : State).txU ≠ none ∧
      ({ s with upU := false } : State).upU = false := by decide +kernel

theorem witness_CommandFramesAreSortedAndAdmitted :
    let args : List Byte := List.replicate 60 0
    let s := { started with nodeAddr := 62 }
    let frame := fun dest : Byte => frameBytes 0x03 (dest :: 1 :: 0x7F :: BitVec.ofNat 8 args.length :: args)
    args.length ≤ 60 ∧ s.nodeAddr ≠ 63 ∧
      Delivers s .d (body (frame (s.nodeAddr.setWidth 8)) ++ [lastOf (frame (s.nodeAddr.setWidth 8))])
        ⟨frame (s.nodeAddr.setWidth 8), false⟩ .endSymbol (afterSymbols 63) ∧
      Delivers s .d (body (frame 63) ++ [lastOf (frame 63)]) ⟨frame 63, false⟩ .endSymbol (afterSymbols 63) :=
  ⟨by decide, by decide, delivers rfl rfl (by decide +kernel), delivers rfl rfl (by decide +kernel)⟩

theorem witness_OtherFramesOfPortDPassToTheReturnQueue :
    (∀ p : List Byte, p = [1, 2, 3, 4] ∨ p = [5, 1, 2, 0] →
        Delivers started .d (body (frameBytes 0x06 p) ++ [lastOf (frameBytes 0x06 p)]) ⟨frameBytes 0x06 p, false⟩ .endSymbol
          (afterSymbols 11) ∧ receive ⟨frameBytes 0x06 p, false⟩ .endSymbol = .good 0x06 p) ∧
      Delivers started .d (body (frameBytes 0x03 [5, 1, 2, 0]) ++ [lastOf (frameBytes 0x03 [5, 1, 2, 0])])
        ⟨frameBytes 0x03 [5, 1, 2, 0], false⟩ .endSymbol (afterSymbols 11) ∧
      receive ⟨frameBytes 0x03 [5, 1, 2, 0], false⟩ .endSymbol = .good 0x03 [5, 1, 2, 0] ∧
      ∀ d, ([5, 1, 2, 0] : List Byte).head? = some d → d ≠ 63 ∧ d ≠ started.nodeAddr.setWidth 8 :=
  ⟨by rintro p (rfl | rfl) <;> exact ⟨delivers rfl rfl (by decide +kernel), by decide +kernel⟩,
    delivers rfl rfl (by decide +kernel), by decide +kernel, by rintro d ⟨⟩; decide⟩

/-- A forward queue with some ordinary places taken. -/
def filled (n : Nat) (s : State) : State := { s with forward := List.replicate n ⟨.passed [1], false, true, false, false⟩ }

theorem witness_FramesOfPortUJoinTheForwardQueue :
    (∀ n : Nat, Delivers (filled n started) .u (body (frameBytes 0x06 [1, 2, 3, 4]) ++ [lastOf (frameBytes 0x06 [1, 2, 3, 4])])
        ⟨frameBytes 0x06 [1, 2, 3, 4], false⟩ .endSymbol (afterSymbols 11)) ∧
      receive ⟨frameBytes 0x06 [1, 2, 3, 4], false⟩ .endSymbol = .good 0x06 [1, 2, 3, 4] ∧
      placesTaken (filled 3 started).forward < 4 ∧ 4 ≤ placesTaken (filled 4 started).forward :=
  ⟨fun _ => delivers rfl rfl (by decide +kernel), by decide +kernel, by decide +kernel, by decide +kernel⟩

theorem witness_ArbiterChoosesByItsTable :
    (∀ up : Bool, ({ queued with upD := up } : State).upD = up ∧ queued.txD = none ∧
      (∃ w, ({ queued with upD := up, alertSlot := some ⟨none, none⟩, slotOwed := true } : State).alertSlot = some w) ∧
      (∃ r rest, ({ queued with upD := up, replies := [⟨0, 1, 2, .ok, .empty⟩], slotOwed := true } : State).replies = r :: rest) ∧
      (∃ q rest, ({ queued with upD := up } : State).forward = q :: rest ∧ q.complete = true ∧ queued.slotOwed = false) ∧
      ForwardSettled { queued with upD := up }) ∧
      started.headReady = false ∧ started.alertSlot = none ∧ started.replies = [] ∧
      ({ queued with txD := some ⟨.passed [], true, false⟩ } : State).txD ≠ none :=
  ⟨fun _ => ⟨rfl, rfl, ⟨_, rfl⟩, ⟨_, _, rfl⟩, ⟨_, _, rfl, rfl, rfl⟩, queued_settled⟩, rfl, rfl, rfl, nofun⟩

/-- While port D is DOWN the ending mark of the FILL frame serves the one reply, and a second mark stays owed (R192, R194). -/
theorem test_down_serves_owed_slots :
    let reply : Reply := ⟨0, 1, 2, .ok, .empty⟩
    let s := { queued with upD := false, replies := [reply] }
    (settle s).slotOwed = false ∧ (settle s).replies = [] ∧ (settle s).forward = [] ∧
      (settle { s with slotOwed := true }).slotOwed = true := by decide +kernel

theorem witness_SubmissionAcceptedOrCounted : (logOf 63).records.length < 64 ∧ 64 ≤ (logOf 64).records.length := by decide

/-- A part in CLOSED after some lost cycles. -/
def closedAfter (n : Nat) : State := { open202 with tracker := { open202.tracker with state := .closed, consecutiveLost := n } }

theorem witness_TimerEndClosesOrLosesACycle :
    started.tracker.timer = none ∧
      (open202.tracker.timer ≠ none ∧ open202.tracker.state = .opened ∧
        ({ open202 with log := logOf 63 } : State).log.records.length < 64 ∧
        takesStale open202 202 open202.tracker.seen 7 = false) ∧
      ((closedAfter 1).tracker.timer ≠ none ∧ (closedAfter 1).tracker.state = .closed ∧
        (closedAfter 1).tracker.consecutiveLost + 1 < (closedAfter 1).params.lossLimit) ∧
      (closedAfter 2).params.lossLimit ≤ (closedAfter 2).tracker.consecutiveLost + 1 ∧
      (closedAfter 2).tables.deviceMode = .active ∧ ((closedAfter 2).groupEntry 7).linkBound = true ∧
      (staleTrigger ((closedAfter 2).tracker.lastCycle + 1) (Vector.replicate 96 false)
        { closedAfter 2 with log := logOf 55 }).log.records.length ≤ 55 := by decide +kernel

theorem witness_TrackerJudgesAnArrival :
    ((arrive 202 1 open202).1 = true ∧ (arrive 203 0 open202).1 = true ∧
      ¬ (open202.tracker.state = .opened ∧ (203 : CycleNo) = open202.tracker.lastCycle)) ∧
      active30.tracker.state = .nosync ∧
      (open202.tracker.state = .opened ∧ (202 : CycleNo) = open202.tracker.lastCycle ∧ 1 = open202.tracker.lastIndex + 1 ∧
        open202.tracker.lastIndex + 1 < 2 ∧ ahead 203 open202.tracker.lastCycle = true) ∧
      ((closedAfter 0).tracker.state = .closed ∧ ahead 203 (closedAfter 0).tracker.lastCycle = true ∧
        ahead 32969 (closedAfter 0).tracker.lastCycle = true) ∧
      (0 ≤ open202.tracker.lastIndex ∧ ahead 32970 open202.tracker.lastCycle = false ∧ ahead 201 open202.tracker.lastCycle = false ∧
        ahead 202 (closedAfter 0).tracker.lastCycle = false) := by decide +kernel

/-- Full segments that synchronise, and that open a cycle ahead in OPEN and in CLOSED. -/
theorem witness_TrackerJudgesAnArrival_exec :
    ∀ s ∈ [active30, open202, closedAfter 0, started],
      let g : Segment := ⟨203, 0, List.replicate 48 ⟨1, 2, 3⟩⟩
      let t := arrived .u (Frame.seg g).bytes (busy (filled 3 s))
      g.entries.length ≤ 48 ∧
        Delivers t .u ([] ++ [finishPattern .minus]) ⟨(Frame.seg g).bytes, false⟩ .endSymbol (afterSymbols 1) ∧
        ForwardSettled t ∧ placesTaken t.forward < 4 ∧ LineBusy t ∧
        (arrive g.cycle (g.segByte.toNat % 16) { t with
          rxU := afterSymbols 1, forward := t.forward ++ [⟨.seg g, false, false, false, true⟩] }).1 = true := by
  intro s hs
  simp only [List.mem_cons, List.not_mem_nil, or_false] at hs
  rcases hs with rfl | rfl | rfl | rfl <;>
    exact ⟨by decide, delivers_end rfl _, by unfold ForwardSettled; decide +kernel, by decide +kernel, ⟨rfl, rfl⟩, by decide +kernel⟩

/-- A channel's seen mark set. -/
def seen30 : State := { open202 with tracker := { open202.tracker with seen := open202.tracker.seen.set 30 true } }

/-- A full segment. -/
def full (cycle : CycleNo) (segByte : Byte) : Segment := ⟨cycle, segByte, List.replicate 48 ⟨1, 2, 3⟩⟩

theorem settled_of_empty {s : State} (h : s.forward = []) (ht : s.txD = none) : ForwardSettled s :=
  ⟨fun q hq => by (rw [h] at hq; cases hq), fun f hf => by rw [ht] at hf; cases hf⟩

theorem witness_DiscardedSegmentLeavesOnlyItsReport :
    (∀ (g : Segment) (s : State), s.up .u = true →
        Delivers (arrived .u (Frame.seg g).bytes s) .u ([] ++ [finishPattern .minus]) ⟨(Frame.seg g).bytes, false⟩ .endSymbol
          (afterSymbols 1)) ∧
      (full 0 0).entries.length ≤ 48 ∧ ForwardSettled open202 ∧ placesTaken (filled 3 open202).forward < 4 ∧
      (open202.up .u = true ∧ active30.up .u = true ∧ open202.tables.deviceMode = .active) ∧
      (active30.tracker.state = .nosync ∧ (full 202 1).segByte.toNat % 16 ≠ 0) ∧
      (open202.tracker.state = .opened ∧ (full 202 0).cycle = open202.tracker.lastCycle ∧
        (full 202 0).segByte.toNat % 16 ≤ open202.tracker.lastIndex) ∧
      ((full 32970 0).cycle ≠ open202.tracker.lastCycle ∧ ahead (full 32970 0).cycle open202.tracker.lastCycle = false) ∧
      (closedAfter 0).tracker.state = .closed ∧ ahead (full 202 0).cycle (closedAfter 0).tracker.lastCycle = false :=
  ⟨fun _ _ h => delivers_end h _, by decide, settled_of_empty rfl rfl, by decide +kernel, by decide +kernel, by decide +kernel,
    by decide +kernel, by decide +kernel, by decide +kernel, by decide +kernel⟩

theorem witness_BypassForwardsEverySegmentUntouched :
    let s := arrived .u (Frame.seg (full 5 0)).bytes (busy (filled 3 started))
    (full 5 0).entries.length ≤ 48 ∧
      Delivers s .u ([] ++ [finishPattern .minus]) ⟨(Frame.seg (full 5 0)).bytes, false⟩ .endSymbol (afterSymbols 1) ∧
      s.tables.deviceMode = .bypass ∧ s.tables.commit = none ∧
      s.tables.modeChange = false ∧ ForwardSettled s ∧ placesTaken s.forward < 4 ∧ LineBusy s ∧
      (arrive 5 0 s).1 = true ∧ (arrive 5 1 s).1 = false :=
  ⟨by decide, delivers_end rfl _, rfl, rfl, rfl, by unfold ForwardSettled; decide +kernel, by decide +kernel, ⟨rfl, rfl⟩,
    by decide +kernel, by decide +kernel⟩

theorem witness_ActiveSegmentKeepsOneEntryPerCheckedChannel :
    let s := arrived .u (Frame.seg (full 202 1)).bytes (busy (filled 3 open202))
    (full 202 1).entries.length ≤ 48 ∧
      Delivers s .u ([] ++ [finishPattern .minus]) ⟨(Frame.seg (full 202 1)).bytes, false⟩ .endSymbol (afterSymbols 1) ∧
      s.tables.deviceMode = .active ∧ ForwardSettled s ∧
      placesTaken s.forward < 4 ∧ LineBusy s ∧ s.tracker.state = .opened ∧ (full 202 1).cycle = s.tracker.lastCycle ∧
      s.tracker.lastIndex < (full 202 1).segByte.toNat % 16 ∧ s.tracker.lastIndex < (full 202 15).segByte.toNat % 16 ∧
      (full 202 1).segByte.msb = false ∧ s.checked 30 = true ∧ s.checked 1 = false :=
  ⟨by decide, delivers_end rfl _, rfl, by unfold ForwardSettled; decide +kernel, by decide +kernel, ⟨rfl, rfl⟩, rfl, rfl,
    by decide +kernel, by decide +kernel, by decide +kernel, by decide +kernel, by decide +kernel⟩

/-- The last flag: with channel 30 missing a FILL is built where the reserved place is free, and none where it is held or nothing is
missing. -/
theorem witness_ActiveSegmentKeepsOneEntryPerCheckedChannel_last :
    let g : Segment := ⟨202, 0x81, []⟩
    let held : State := { open202 with forward := [⟨.fill 201 [⟨30, 0, 3⟩], true, true, true, false⟩] }
    (∀ s : State, s.upU = true → s.rxU = .quiet →
        Delivers s .u (body (Frame.seg g).bytes ++ [lastOf (Frame.seg g).bytes]) ⟨(Frame.seg g).bytes, false⟩ .endSymbol
          (afterSymbols 11)) ∧
      (g.segByte.msb = true ∧ g.cycle = open202.tracker.lastCycle ∧ open202.tracker.lastIndex < g.segByte.toNat % 16) ∧
      ((open202.entry 30).mode = .guard ∧ (open202.entry 30).expected g.cycle = true ∧
        (after (exec (frameRow .u (Frame.seg g).bytes []) (busy open202))).tracker.seen[(30 : Chan)] = false ∧
        open202.forward.any (·.reserved) = false) ∧
      (held.upU = true ∧ held.rxU = .quiet ∧ held.forward.any (·.reserved) = true ∧ ForwardSettled held) ∧
      (seen30.upU = true ∧ seen30.rxU = .quiet ∧
        ∀ c : Chan, (seen30.entry c).mode = .guard → seen30.tracker.seen[c] = true) :=
  ⟨fun _ hu hr => delivers hu hr (by decide +kernel), by decide +kernel, by decide +kernel,
    ⟨rfl, rfl, rfl, by unfold ForwardSettled; decide +kernel⟩, rfl, rfl, by decide +kernel⟩

/-- A RESET DEVICE before the second of two samples. -/
theorem witness_ActiveSegmentKeepsOneEntryPerCheckedChannel_reset :
    let g : Segment := ⟨202, 0x81, [⟨30, 200000, 0⟩] ++ [⟨30, 200001, 0⟩]⟩
    let s := arrived .u (Frame.seg g).bytes (busy (filled 3 (holding 0x60 [2] open202)))
    g.entries.length ≤ 48 ∧
      Delivers s .u ([] ++ [finishPattern .minus]) ⟨(Frame.seg g).bytes, false⟩ .endSymbol (afterSymbols 1) ∧
      ForwardSettled s ∧ placesTaken s.forward < 4 ∧ LineBusy s ∧ AtHead s (one 0x60 [2]) [] 0x60 ∧
      (arrive g.cycle (g.segByte.toNat % 16) { s with
        rxU := afterSymbols 1, forward := s.forward ++ [⟨.seg g, false, false, false, true⟩] }).1 = true :=
  ⟨by decide, delivers_end rfl _, by unfold ForwardSettled; decide +kernel, by decide +kernel, ⟨rfl, rfl⟩, ⟨rfl, rfl, Or.inr (by decide)⟩,
    by decide +kernel⟩

/-- A commit is pending on a part. -/
def committing (k : CommitTarget) (s : State) : State := { s with tables := { s.tables with commit := some k } }

/-- A change to BYPASS is pending on a part. -/
def leaving (s : State) : State := { s with tables := { s.tables with modeChange := true } }

/-- A bank copy is in flight on a part. -/
def copying (s : State) : State := { s with tables := { s.tables with copyInFlight := true } }

theorem witness_CommitIsMadeAtTheFirstOpenThatReachesIt :
    (committing (.atCycle 203) open202).tables.commit = some (.atCycle 203) ∧
      (committing .next started).tables.commit = some .next ∧ (committing .next started).tables.modeChange = false ∧
      ahead 203 202 = true ∧ ahead 203 203 = false ∧ open202.tables.commit = none ∧ open202.tables.modeChange = false := by
  decide +kernel

/-- A test that waits for a close. -/
def waiting : PendingTest := ⟨.qualify 16, 30, 5⟩

theorem witness_ModeChangeIsMadeOrDroppedAtTheOpen :
    ((leaving tripped1).tables.modeChange = true ∧ (leaving tripped1).tables.commit = none ∧
        ∃ g : Grp, ((leaving tripped1).group g).state = .tripped) ∧
      (leaving open202).tables.modeChange = true ∧ (∀ g : Grp, ((leaving open202).group g).state = .armed) ∧
      ({ leaving open202 with test := ⟨some waiting, .nothing⟩ } : State).test.pending = some waiting :=
  ⟨⟨rfl, rfl, 1, by decide +kernel⟩, rfl, by decide +kernel, rfl⟩

theorem tripped1_honest : FaultPinHonest tripped1 := ⟨fun _ => ⟨1, by decide +kernel⟩, fun _ => rfl⟩

theorem witness_OpenStepsHoldoffsAndAutoRearms :
    FaultPinHonest tripped1 ∧ (tripped1.group 0).state = .armed ∧ (tripped1.group 1).state = .tripped ∧
      ({ tripped1 with log := logOf 56 } : State).log.records.length ≤ 56 :=
  ⟨tripped1_honest, by decide +kernel, by decide +kernel, by decide⟩

/-- Channel 30 FAULTED after some clean evaluations, its history full. -/
def faulted30 (recovery : Nat) : State :=
  { open202 with
    channels := open202.channels.set 30
      ⟨.faulted, [.clean, .violating, .violating, .violating], 3, recovery, some 5, none, false, some .staleOnly, some 200⟩ }

/-- Channel 30 SUSPECT with some violating evaluations behind it. -/
def suspect30 (n : Nat) : State :=
  { open202 with
    channels := open202.channels.set 30
      { ChannelRecord.fresh .suspect with history := List.replicate n .violating, violations := n } }

theorem witness_EvaluationJudgesOneChannel :
    (((faulted30 0).channel 30).state = .faulted ∧ ClassSet.staleOnly ≠ .none ∧
        ((faulted30 0).channel 30).recovery + 1 < ((faulted30 0).entry 30).recovery ∧
        ((faulted30 2).entry 30).recovery ≤ ((faulted30 2).channel 30).recovery + 1) ∧
      (((suspect30 1).channel 30).state ≠ .faulted ∧
        ((Verdict.violating :: ((suspect30 1).channel 30).history).take ((suspect30 1).entry 30).window).count .violating <
          ((suspect30 1).entry 30).threshold) ∧
      (((suspect30 2).entry 30).threshold ≤
        ((Verdict.violating :: ((suspect30 2).channel 30).history).take ((suspect30 2).entry 30).window).count .violating) ∧
      ({ suspect30 2 with log := logOf 63 } : State).log.records.length < 64 ∧
      (((suspect30 2).entry 30).group = some 1 ∧ ((suspect30 2).entry 30).mode = .guard ∧ ((suspect30 2).entry 30).trip = true ∧
        (suspect30 2).tables.deviceMode = .active ∧ ((suspect30 2).group 1).state = .armed ∧
        (({ suspect30 2 with groups := tripped1.groups } : State).group 1).state = .tripped) ∧
      ((suspect30 2).entry 95).group = none := by decide +kernel

theorem witness_UnjudgedSamplesChangeNoRecord :
    open202.tracker.state = .opened ∧ 96 ≤ (⟨96, 5, 0⟩ : SampleEntry).channel.toNat ∧
      ((95 : Chan).val = (⟨95, 5, 0⟩ : SampleEntry).channel.toNat ∧ open202.checked 95 = false) ∧
      (30 : Chan).val = (⟨30, 5, 0⟩ : SampleEntry).channel.toNat ∧ seen30.checked 30 = true ∧ seen30.tracker.seen[(30 : Chan)] = true := by
  decide +kernel

/-- A part whose channel 30 reacts in some way, and its state after a sample of that channel. -/
def reacting (r : Reaction) (hold : Bool) (mode : ChannelMode) (s : State) : State :=
  { s with tables := { s.tables with bankA := { s.tables.bankA with
      channels := s.tables.bankA.channels.set 30 { entry30 with reaction := r, holdSuspect := hold, mode := mode, trip := false } } } }

/-- The state after the work on a sample of channel 30. -/
def sampled (v : Sample) (s : State) : State := (sampleWork ⟨30, v, 0⟩ s).1

theorem witness_JudgedSampleIsEmittedByTheTable :
    (open202.tracker.state = .opened ∧ (30 : Chan).val = (⟨30, 5, 0⟩ : SampleEntry).channel.toNat ∧ open202.checked 30 = true ∧
        open202.tracker.seen[(30 : Chan)] = false) ∧
      ((tripped1.entry 30).mode = .guard ∧ (tripped1.entry 30).group = some 1 ∧ ((sampled 5 tripped1).group 1).state = .tripped) ∧
      (∀ r : Reaction, ((sampled 5 (reacting r false .guard (faulted30 0))).channel 30).state = .faulted ∧
        ((sampled 5 (reacting r false .guard (faulted30 0))).group 1).state ≠ .tripped) ∧
      (((sampled 240001 (reacting .hold true .guard open202)).channel 30).state ≠ .faulted ∧
        (checkOutcome entry30 (some 200000) ⟨30, 240001, 0⟩).classes ≠ .none) ∧
      ((sampled 200000 (reacting .hold true .guard open202)).channel 30).state ≠ .faulted ∧
      (checkOutcome entry30 (some 200000) ⟨30, 200000, 0⟩).classes = .none ∧
      ((reacting .hold true .monitor open202).entry 30).mode = .monitor ∧ (reacting .hold true .monitor open202).checked 30 = true :=
  ⟨by decide +kernel, by decide +kernel, fun r => by cases r <;> decide +kernel, by decide +kernel, by decide +kernel,
    by decide +kernel, by decide +kernel, by decide +kernel⟩

theorem witness_FillFrameCarriesTheMissingGuardChannels :
    let q : Queued := ⟨.seg ⟨203, 0, []⟩, false, false, false, true⟩
    let s := { filled 2 open202 with forward := (filled 2 open202).forward ++ [q] }
    (open202.tables.deviceMode = .active ∧ fillEntries open202 202 ≠ [] ∧ ∀ q ∈ open202.forward, q.reserved = false) ∧
      (fillEntries s 202 ≠ [] ∧ (∀ q ∈ s.forward, q.reserved = false) ∧ (∀ x ∈ (filled 2 open202).forward, x.complete = true) ∧
        q.complete = false) ∧
      (∃ q ∈ ({ open202 with forward := [⟨.fill 201 [⟨30, 0, 3⟩], true, true, true, false⟩] } : State).forward, q.reserved = true) ∧
      started.tables.deviceMode = .bypass ∧ fillEntries seen30 202 = [] :=
  ⟨⟨rfl, by decide +kernel, by decide +kernel⟩, ⟨by decide +kernel, by decide +kernel, by decide +kernel, rfl⟩,
    ⟨_, List.mem_singleton.mpr rfl, rfl⟩, rfl, by decide +kernel⟩

theorem witness_TripLineFallRequestsPinBoundGroups :
    ({ started with tripHigh := false } : State).tripHigh = false ∧ (started.tripHigh = true ∧ started.tables.deviceMode = .bypass) ∧
      open202.tripHigh = true ∧ open202.tables.deviceMode = .active ∧ (logOf 56).records.length ≤ 56 := by decide +kernel

theorem witness_TripCommandRequestsItsGroups :
    AtHead (holding 0x32 [7] open202) (one 0x32 [7]) [] 0x32 ∧ (7 : Byte).toNat < 8 ∧
      AtHead (holding 0x32 [255] started) (one 0x32 [255]) [] 0x32 ∧ started.tables.deviceMode = .bypass ∧
      open202.tables.deviceMode = .active ∧ (logOf 56).records.length ≤ 56 :=
  ⟨atHead_holding _ _ _ (by decide), by decide, atHead_holding _ _ _ (by decide), rfl, rfl, by decide⟩

theorem witness_RearmCommandRearmsReadyGroups :
    AtHead (holding 0x33 [1] tripped1) (one 0x33 [1]) [] 0x33 ∧ AtHead (holding 0x33 [255] tripped1) (one 0x33 [255]) [] 0x33 ∧
      (tripped1.group 0).state = .armed ∧ ((tripped1.group 1).state = .tripped ∧ failedCondition tripped1 1 = none) ∧
      failedCondition { tripped1 with tripHigh := false } 1 = some .pin ∧ (logOf 56).records.length ≤ 56 :=
  ⟨atHead_holding _ _ _ (by decide), atHead_holding _ _ _ (by decide), by decide +kernel, by decide +kernel, by decide +kernel, by decide⟩

theorem witness_CommandsWaitForRoomAndUnknownOnesAreRefused :
    Instr.identify ∈ commandRows ∧ started.cmdFifo = [] ∧
      (∃ s : State, s.cmdFifo = [one 0x01 []] ∧ (one 0x01 []).broadcast = false ∧ 8 ≤ s.replies.length) ∧
      (∀ code args, (holding code args started).cmdFifo = one code args :: [] ∧
        AtHead (holding code args started) (one code args) [] code) ∧
      ((Instr.status, (0x02 : Byte)) ∈ rowCodes ∧ (one 0x01 []).code ≠ 0x02 ∧ (Instr.resetDevice, (0x60 : Byte)) ∈ rowCodes) ∧
      (one 0x01 []).code ∈ commandCodes ∧ (one 0x7F []).code ∉ commandCodes ∧
      (∀ b : Byte, b = 0 ∨ b = 1 ∨ b = 2 → (one 0x60 [b]).args = [b]) ∧
      (one 0x01 [9]).args ≠ [] ∧
      ((∀ b n : Byte, (one 0x10 [2, 0]).args = [b, n] → 1 < b.toNat ∨ 96 ≤ n.toNat) ∧
        (∀ b n : Byte, (one 0x10 [0, 96]).args = [b, n] → 1 < b.toNat ∨ 96 ≤ n.toNat) ∧
        (∀ b n : Byte, (one 0x10 [0, 0, 0]).args = [b, n] → 1 < b.toNat ∨ 96 ≤ n.toNat)) ∧
      (∀ b n : Byte, (one 0x12 [1, 8]).args = [b, n] → 1 < b.toNat ∨ 8 ≤ n.toNat) ∧
      (∀ b : Byte, (one 0x14 [2]).args = [b] → 1 < b.toNat) ∧
      (∀ k : CommitTarget, (one 0x20 [2]).args ≠ k.bytes) ∧
      (∀ n : Byte, (one 0x30 [96]).args = [n] → 96 ≤ n.toNat) ∧ (∀ n : Byte, (one 0x31 [8]).args = [n] → 8 ≤ n.toNat) ∧
      (∀ n : Byte, (one 0x32 [254]).args = [n] → 8 ≤ n.toNat ∧ n ≠ 255) ∧
      (∀ n : Byte, (one 0x40 [5]).args = [n] → n.toNat = 0 ∨ 4 < n.toNat) ∧
      (∀ n : Byte, (one 0x40 [0]).args = [n] → n.toNat = 0 ∨ 4 < n.toNat) ∧ (one 0x41 [1]).args.length ≠ 2 ∧
      (∀ p : PendingTest, p.expectation.InRange → (one 0x50 [0, 0]).args ≠ p.args) ∧
      ((one 0x51 [2]).args ≠ [0] ∧ (one 0x51 [2]).args ≠ [1]) := by
  refine ⟨by decide, rfl, ⟨{ started with cmdFifo := [one 0x01 []], replies := List.replicate 8 ⟨0, 1, 2, .ok, .empty⟩ }, rfl, rfl,
    by decide⟩, fun _ _ => ⟨rfl, atHead_holding _ _ _ (by decide)⟩, ⟨by decide, by decide, by decide⟩, by decide, by decide,
    fun _ _ => rfl, by decide, ⟨?_, ?_, nofun⟩, ?_, ?_, ?_, ?_, ?_, ?_, ?_, ?_, by decide, ?_, by decide, by decide⟩
  · rintro b n ⟨⟩; decide
  · rintro b n ⟨⟩; decide
  · rintro b n ⟨⟩; decide
  · rintro b ⟨⟩; decide
  · rintro (_ | n) h <;> simp [one, CommitTarget.bytes, byte1] at h
  · rintro n ⟨⟩; decide
  · rintro n ⟨⟩; decide
  · rintro n ⟨⟩; decide
  · rintro n ⟨⟩; decide
  · rintro n ⟨⟩; decide
  · rintro p - h
    have := congrArg List.length h
    simp [one, PendingTest.args, byte1, byte3] at this

theorem witness_ReadingCommandsAnswerWithTheState :
    AtHead (holding 0x01 [] started) (one 0x01 []) [] 0x01 ∧ AtHead (holding 0x02 [] started) (one 0x02 []) [] 0x02 ∧
      AtHead (holding 0x30 [95] started) (one 0x30 [95]) [] 0x30 ∧ (one 0x30 [95]).args = [BitVec.ofNat 8 (95 : Chan).val] ∧
      AtHead (holding 0x31 [7] tripped1) (one 0x31 [7]) [] 0x31 ∧ (one 0x31 [7]).args = [BitVec.ofNat 8 (7 : Grp).val] ∧
      AtHead (holding 0x40 [1] started) (one 0x40 [1]) [] 0x40 ∧ AtHead (holding 0x40 [4] started) (one 0x40 [4]) [] 0x40 ∧
      (1 ≤ (1 : Byte).toNat ∧ (4 : Byte).toNat ≤ 4) ∧
      AtHead (holding 0x10 [0, 0] started) (one 0x10 [0, 0]) [] 0x10 ∧ AtHead (holding 0x10 [1, 95] started) (one 0x10 [1, 95]) [] 0x10 ∧
      AtHead (holding 0x12 [0, 0] started) (one 0x12 [0, 0]) [] 0x12 ∧ AtHead (holding 0x12 [1, 7] started) (one 0x12 [1, 7]) [] 0x12 ∧
      AtHead (holding 0x14 [0] started) (one 0x14 [0]) [] 0x14 ∧ AtHead (holding 0x14 [1] started) (one 0x14 [1]) [] 0x14 ∧
      started.tables.copyInFlight = false ∧ (copying started).tables.copyInFlight = true :=
  ⟨atHead_holding _ _ _ (by decide), atHead_holding _ _ _ (by decide),
    atHead_holding _ _ _ (by decide), rfl, atHead_holding _ _ _ (by decide), rfl, atHead_holding _ _ _ (by decide),
    atHead_holding _ _ _ (by decide), by decide, atHead_holding _ _ _ (by decide), atHead_holding _ _ _ (by decide),
    atHead_holding _ _ _ (by decide), atHead_holding _ _ _ (by decide), atHead_holding _ _ _ (by decide),
    atHead_holding _ _ _ (by decide), rfl, rfl⟩

theorem witness_FailedConditionIsTheFirstOfFour :
    (∀ c : Chan, ¬ ((open202.entry c).group = some 1 ∧ (open202.entry c).mode = .guard ∧ (open202.channel c).state = .faulted)) ∧
      ((faulted30 0).entry 30).group = some 1 ∧ ((faulted30 0).channel 30).state = .faulted ∧
      ((open202.groupEntry 1).pinBound = true ∧ ({ open202 with tripHigh := false } : State).tripHigh ≠ true) ∧
      ((active30.groupEntry 1).linkBound = true ∧ active30.tracker.state = .nosync) ∧
      (open202.tripHigh = true ∧ open202.tracker.state ≠ .nosync ∧ (open202.group 1).holdoffLeft = 0) ∧
      ({ open202 with groups := open202.groups.set 1 ⟨.tripped, some .pin, none, none, 255⟩ } : State).group 1 =
        ⟨.tripped, some .pin, none, none, 255⟩ := by decide +kernel

/-- The twenty field numbers, in falling order. -/
def allFields : List Nat := [20, 19, 18, 17, 16, 15, 14, 13, 12, 11, 10, 9, 8, 7, 6, 5, 4, 3, 2, 1]

/-- An entry with fields at the ends of their ranges. -/
def edgeEntry : ChannelEntry :=
  { entry30 with period := 16, phase := 15, rateLimit := 8388607, window := 16, threshold := 16, recovery := 255, group := some 7 }

theorem edgeEntry_inRange : edgeEntry.InRange :=
  ⟨by decide, by decide, by decide, by decide, by decide, by decide⟩

theorem witness_WriteChannelStoresTheFieldsItLists :
    (∀ ns : List Nat, AtHead (holding 0x11 (95 :: ns.flatMap edgeEntry.item) started) (one 0x11 (95 :: ns.flatMap edgeEntry.item)) [] 0x11) ∧
      edgeEntry.InRange ∧ FieldNumbers 20 allFields ∧ FieldNumbers 20 [] ∧ (95 : Byte) = BitVec.ofNat 8 (95 : Chan).val ∧
      started.tables.copyInFlight = false ∧ started.tables.commit = none ∧ started.tables.modeChange = false :=
  ⟨fun _ => atHead_holding _ _ _ (by decide), edgeEntry_inRange, by unfold FieldNumbers; decide, by unfold FieldNumbers; decide, rfl,
    rfl, rfl, rfl⟩

/-- Channel 95's every field written in one frame, in falling order. -/
theorem test_write_every_field :
    (after (exec .writeChannel (holding 0x11 (95 :: allFields.flatMap edgeEntry.item) started))).tables.bankB.channels[95] =
      edgeEntry := by decide +kernel

/-- Cycle parameters at the ends of their ranges. -/
def edgeParams : CycleParams := ⟨65535, 16, .ofNat 1023⟩

/-- A group entry at the end of its range. -/
def edgeGroup : GroupEntry := ⟨true, 255, false, false⟩

theorem witness_WriteGroupAndCycleStoreTheFieldsTheyList :
    (∀ ns : List Nat, AtHead (holding 0x13 (7 :: ns.flatMap edgeGroup.item) started) (one 0x13 (7 :: ns.flatMap edgeGroup.item)) [] 0x13) ∧
      edgeGroup.holdoff ≤ 255 ∧ FieldNumbers 4 [4, 3, 2, 1] ∧ (7 : Byte) = BitVec.ofNat 8 (7 : Grp).val ∧
      (∀ ns : List Nat, AtHead (holding 0x15 (ns.flatMap edgeParams.item) started) (one 0x15 (ns.flatMap edgeParams.item)) [] 0x15) ∧
      (10 ≤ edgeParams.cycleTimeout ∧ edgeParams.cycleTimeout ≤ 65535 ∧ 1 ≤ edgeParams.lossLimit ∧ edgeParams.lossLimit ≤ 16) ∧
      FieldNumbers 3 [3, 2, 1] ∧ started.tables.copyInFlight = false ∧ started.tables.commit = none ∧
      started.tables.modeChange = false :=
  ⟨fun _ => atHead_holding _ _ _ (by decide), by decide, by unfold FieldNumbers; decide, rfl,
    fun _ => atHead_holding _ _ _ (by decide), by decide, by unfold FieldNumbers; decide, rfl, rfl, rfl⟩

theorem witness_WritesAreRefusedWhileTheBankIsClosed :
    (∀ (s : State) (code : Byte) (args : List Byte), s.replies.length < 8 → AtHead (holding code args s) (one code args) [] code) ∧
      (FieldNumbers 20 allFields ∧ FieldNumbers 4 [4, 3, 2, 1] ∧ FieldNumbers 3 [3, 2, 1]) ∧
      ((copying started).tables.copyInFlight = true ∧ (committing .next started).tables.commit = some .next ∧
        (leaving open202).tables.modeChange = true) ∧
      OpenToWrites started ∧ edgeEntry.InRange ∧ edgeGroup.holdoff ≤ 255 ∧
      (10 ≤ edgeParams.cycleTimeout ∧ edgeParams.cycleTimeout ≤ 65535 ∧ 1 ≤ edgeParams.lossLimit ∧ edgeParams.lossLimit ≤ 16) ∧
      FieldNumbers 20 ([1] ++ 2 :: [3]) ∧ FieldNumbers 4 ([2] ++ 1 :: [4]) ∧ FieldNumbers 3 ([2] ++ 1 :: [3]) ∧
      ([1] : List Nat).length < 3 ∧ ¬ ([1, 1] : List Nat).Nodup ∧ (∀ m ∈ ([1, 1] : List Nat), 1 ≤ m ∧ m ≤ 3) ∧
      ([0] : List Byte).length < channelFieldWidth 4 ∧ ([] : List Byte).length < channelFieldWidth 1 ∧
      ([0] : List Byte).length < cycleFieldWidth 3 ∧ ([] : List Byte).length < cycleFieldWidth 2 ∧
      (∃ b l, ([96, 1, 0] : List Byte) = b :: l ∧ 96 ≤ b.toNat) ∧ ∃ b l, ([8, 1, 0] : List Byte) = b :: l ∧ 8 ≤ b.toNat :=
  ⟨fun s _ _ h => atHead_holding _ _ s h, by unfold FieldNumbers; decide, by decide +kernel, ⟨rfl, rfl, rfl⟩, edgeEntry_inRange,
    by decide, by decide, by unfold FieldNumbers; decide, by unfold FieldNumbers; decide, by unfold FieldNumbers; decide, by decide,
    by decide, by decide, by decide, by decide, by decide, by decide, ⟨_, _, rfl, by decide⟩, ⟨_, _, rfl, by decide⟩⟩

/-- Refused values next to the ranges of R17. -/
theorem witness_refused_values :
    (RefusedChannelValue 1 [3] ∧ RefusedChannelValue 16 [3] ∧ RefusedChannelValue 2 [3] ∧ RefusedChannelValue 2 [17] ∧
        RefusedChannelValue 3 [16] ∧ RefusedChannelValue 11 [64] ∧ RefusedChannelValue 18 [2] ∧ RefusedChannelValue 13 [0] ∧
        RefusedChannelValue 14 [17] ∧ RefusedChannelValue 15 [0] ∧ RefusedChannelValue 19 [8] ∧ RefusedChannelValue 19 [254] ∧
        RefusedChannelValue 10 [128, 0, 0]) ∧
      (RefusedGroupValue 1 [2] ∧ RefusedGroupValue 4 [255]) ∧
      (RefusedCycleValue 1 [0, 9] ∧ RefusedCycleValue 2 [0] ∧ RefusedCycleValue 2 [17] ∧ RefusedCycleValue 3 [4, 0]) := by
  refine ⟨⟨?_, ?_, ?_, ?_, ?_, ?_, ?_, ?_, ?_, ?_, ?_, ?_, ?_⟩, ⟨?_, ?_⟩, ?_, ?_, ?_, ?_⟩
  all_goals first
    | exact Or.inl ⟨_, rfl, by decide⟩ | exact Or.inr ⟨_, _, _, rfl, rfl, by decide⟩ | exact ⟨_, rfl, by decide⟩
    | exact Or.inr ⟨_, _, rfl, by decide⟩

/-- The refusals' answers on three lists: a bad value behind a good one, a number that names no field, a number twice. -/
theorem test_write_refused :
    replyOf .writeChannel (holding 0x11 [95, 1, 2, 2, 3] started) = some (.badArg, .field 2) ∧
      replyOf .writeGroup (holding 0x13 [7, 2, 9, 5] started) = some (.badArg, .field 5) ∧
      replyOf .writeCycle (holding 0x15 [2, 3, 2, 3] started) = some (.badArg, .empty) := by decide +kernel

/-- A bank whose channel 95 fails validation. -/
def badBank : Bank :=
  { Bank.default with channels := Bank.default.channels.set 95 { entry30 with group := none } }

theorem witness_CommitIsJudgedInOrder :
    AtHead (holding 0x20 (CommitTarget.atCycle 203).bytes open202) (one 0x20 (CommitTarget.atCycle 203).bytes) [] 0x20 ∧
      AtHead (holding 0x20 CommitTarget.next.bytes open202) (one 0x20 CommitTarget.next.bytes) [] 0x20 ∧
      ((copying open202).tables.copyInFlight = true ∧ (committing .next open202).tables.commit = some .next ∧
        (leaving open202).tables.modeChange = true) ∧
      validate badBank = some (95, .group) ∧ validate open202.tables.stagingBank = none ∧
      (active30.tracker.state = .nosync ∧ open202.tracker.state ≠ .nosync) ∧
      ahead 202 open202.tracker.lastCycle = false ∧ ahead 203 open202.tracker.lastCycle = true ∧
      ahead 32969 open202.tracker.lastCycle = true ∧ ahead 32970 open202.tracker.lastCycle = false :=
  ⟨atHead_holding _ _ _ (by decide), atHead_holding _ _ _ (by decide), by decide +kernel, by decide +kernel, by decide +kernel,
    by decide +kernel, by decide +kernel, by decide +kernel, by decide +kernel, by decide +kernel⟩

theorem witness_ValidationMeansTheFourRelations : validate badBank = some (95, .group) := by decide +kernel

theorem witness_CancelAndBypassAnswers :
    AtHead (holding 0x21 [] started) (one 0x21 []) [] 0x21 ∧ AtHead (holding 0x22 [] open202) (one 0x22 []) [] 0x22 ∧
      started.tables.deviceMode = .bypass ∧
      (open202.tables.deviceMode = .active ∧ open202.tables.commit = none ∧ open202.tables.modeChange = false ∧
        ∀ g : Grp, (open202.group g).state = .armed) ∧
      (committing .next open202).tables.commit = some .next ∧ (leaving open202).tables.modeChange = true ∧
      ∃ g : Grp, (tripped1.group g).state = .tripped :=
  ⟨atHead_holding _ _ _ (by decide), atHead_holding _ _ _ (by decide), rfl, ⟨rfl, rfl, rfl, by decide +kernel⟩, rfl, rfl,
    ⟨1, by decide +kernel⟩⟩

theorem witness_LogAckAndClearRemoveFromTheFront :
    AtHead (holding 0x41 [0x03, 0xE9] started) (one 0x41 [0x03, 0xE9]) [] 0x41 ∧
      ([⟨1000, none, .linkRestored⟩, ⟨1001, none, .dup 7⟩, ⟨1002, none, .dup 8⟩] : List LogRecord) =
        [⟨1000, none, .linkRestored⟩] ++ ⟨1001, none, .dup 7⟩ :: [⟨1002, none, .dup 8⟩] ∧
      (1001 : Seq).toNat = (0x03 : Byte).toNat * 256 + (0xE9 : Byte).toNat ∧ (1000 : Seq) ≠ 1001 ∧
      AtHead (holding 0x42 [] started) (one 0x42 []) [] 0x42 :=
  ⟨atHead_holding _ _ _ (by decide), rfl, by decide, by decide, atHead_holding _ _ _ (by decide)⟩

theorem witness_TestCommandsAcceptRunAndReport :
    AtHead (holding 0x50 waiting.args open202) (one 0x50 waiting.args) [] 0x50 ∧ waiting.expectation.InRange ∧
      started.tables.deviceMode = .bypass ∧
      (open202.tables.deviceMode = .active ∧ open202.test.pending = none ∧ (open202.entry waiting.channel).mode ≠ .off ∧
        open202.tracker.state ≠ .nosync ∧ active30.tracker.state = .nosync ∧ (open202.entry 95).mode = .off) ∧
      ({ open202 with test := ⟨some waiting, .nothing⟩ } : State).test.pending = some waiting ∧
      AtHead (holding 0x51 [0] open202) (one 0x51 [0]) [] 0x51 ∧ AtHead (holding 0x51 [1] open202) (one 0x51 [1]) [] 0x51 :=
  ⟨atHead_holding _ _ _ (by decide), by rintro n ⟨⟩; decide, rfl, by decide +kernel, rfl, atHead_holding _ _ _ (by decide),
    atHead_holding _ _ _ (by decide)⟩

theorem witness_TestFindsWhatTheChecksWouldFind :
    (open202.entry 95).mode = .off ∧ (open202.entry 30).mode ≠ .off ∧ (seen30.channel 30).rateBase = some 200000 ∧
      ((faulted30 0).channel 30).rateBase = none ∧
      (1 ≤ (open202.entry 30).threshold ∧ (open202.entry 30).threshold ≤ (open202.entry 30).window ∧ (open202.entry 30).window ≤ 16) := by
  decide +kernel

theorem witness_ResetScopesResetWhatTheyName :
    AtHead (holding 0x60 [0] queued) (one 0x60 [0]) [] 0x60 ∧ AtHead (holding 0x60 [1] queued) (one 0x60 [1]) [] 0x60 ∧
      AtHead (holding 0x60 [2] queued) (one 0x60 [2]) [] 0x60 ∧ AtHead (holding 0x60 [3] queued) (one 0x60 [3]) [] 0x60 ∧
      ForwardSettled queued ∧ (one 0x60 [3]).args ≠ [0] ∧ (one 0x60 [3]).args ≠ [1] ∧ (one 0x60 [3]).args ≠ [2] :=
  ⟨atHead_holding _ _ _ (by decide), atHead_holding _ _ _ (by decide), atHead_holding _ _ _ (by decide),
    atHead_holding _ _ _ (by decide), queued_settled, by decide, by decide, by decide⟩

theorem witness_BankCopyMakesTheBanksEqual :
    started.tables.copyInFlight = false ∧ (copying started).tables.copyInFlight = true := ⟨rfl, rfl⟩

/-! ### States that meet the invariants, with a step to take -/

/-- A part and the step that waits at the front of its queue. -/
def about (i : Instr) (s : State) : State := { s with pending := [i] }

theorem about_steps (i : Instr) (s : State) : step (about i s) = exec i { about i s with pending := [] } := rfl

theorem witness_QueuesStayWithinTheirPlaces :
    let s := about (.portDDown (.violations [wrong])) (failing queued)
    QueuesBounded s ∧ ForwardSettled s ∧ ReceiversSound s ∧ step s = .next (after (step s)) :=
  ⟨⟨by decide, by decide +kernel, by decide +kernel, by decide, by decide⟩, queued_settled,
    fun p => by cases p <;> exact ⟨by decide, by decide, by decide, nofun, fun _ => rfl, nofun⟩, rfl⟩

theorem witness_GroupsAndFaultPinStaySound :
    let s := about .tripNFall tripped1
    GroupsSound s ∧ FaultPinHonest s ∧ step s = .next (after (step s)) := by
  have h : ∀ g : Grp, (((about .tripNFall tripped1).group g).state = .armed → (about .tripNFall tripped1).group g = .armed) ∧
      (((about .tripNFall tripped1).group g).state = .tripped → ((about .tripNFall tripped1).group g).cause.isSome) ∧
      (((about .tripNFall tripped1).group g).causeChannel.isSome ↔ ((about .tripNFall tripped1).group g).cause = some .channel) := by
    decide +kernel
  exact ⟨⟨fun g => ⟨(h g).1, (h g).2.1, (h g).2.2⟩, fun _ => rfl⟩, tripped1_honest, rfl⟩

theorem witness_LogStaysNumbered :
    let s := about .tripNFall { open202 with log := ⟨[⟨65535, some 202, .dup 30⟩, ⟨0, some 202, .dup 7⟩], 1, 9⟩ }
    LogSound s.log ∧ step s = .next (after (step s)) := by
  refine ⟨⟨by decide, fun i h => ?_⟩, rfl⟩
  have : i = 0 ∨ i = 1 := by change i < 2 at h; omega
  rcases this with rfl | rfl <;> rfl

theorem witness_AtMostOneChangeIsPending :
    let s := about (segRow 203 0 []) (leaving { open202 with test := ⟨some waiting, .nothing⟩ })
    PendingSound s ∧ step s = .next (after (step s)) :=
  ⟨⟨Or.inl rfl, nofun, fun _ => rfl, fun _ => rfl⟩, rfl⟩

theorem active30_agrees : StagingAgrees active30.tables :=
  ⟨fun _ c _ => by revert c; decide +kernel, fun _ g _ => by revert g; decide +kernel, fun _ _ => by decide +kernel⟩

theorem witness_UnmarkedStagingAgrees :
    let s := about .tripNFall active30
    StagingAgrees s.tables ∧ step s = .next (after (step s)) := ⟨active30_agrees, rfl⟩

theorem active30_inRange : TablesInRange active30.tables := by
  have h : ∀ b : Bank, b = active30.tables.bankA → b.InRange := by
    rintro b rfl
    have hc : ∀ c : Chan, (active30.tables.bankA.channels[c].period ∈ [1, 2, 4, 8, 16] ∧ active30.tables.bankA.channels[c].phase ≤ 15 ∧
        active30.tables.bankA.channels[c].rateLimit ≤ 8388607) ∧
        (1 ≤ active30.tables.bankA.channels[c].window ∧ active30.tables.bankA.channels[c].window ≤ 16) ∧
        (1 ≤ active30.tables.bankA.channels[c].threshold ∧ active30.tables.bankA.channels[c].threshold ≤ 16) ∧
        (1 ≤ active30.tables.bankA.channels[c].recovery ∧ active30.tables.bankA.channels[c].recovery ≤ 255) := by decide +kernel
    exact ⟨fun c => ⟨(hc c).1.1, (hc c).1.2.1, (hc c).1.2.2, (hc c).2.1, (hc c).2.2.1, (hc c).2.2.2⟩, by decide +kernel, by decide +kernel,
      by decide +kernel⟩
  exact ⟨h _ rfl, h _ rfl⟩

theorem witness_TablesStayInRangeAndValid :
    let s := about .tripNFall active30
    TablesInRange s.tables ∧ TablesValid s.tables ∧ step s = .next (after (step s)) :=
  ⟨active30_inRange, ⟨by decide +kernel, nofun, nofun⟩, rfl⟩

theorem witness_TimerAndLossCountsStaySound :
    let s := about .cycleTimerExpiry (closedAfter 2)
    TimerSound s ∧ LossSound s ∧ TablesInRange s.tables ∧ step s = .next (after (step s)) :=
  ⟨by unfold TimerSound; decide +kernel, ⟨by decide, fun _ => by decide +kernel, by decide⟩, active30_inRange, rfl⟩

theorem witness_RuntimeRecordsStaySound :
    let s := about .cycleTimerExpiry open202
    ChannelsSound s ∧ step s = .next (after (step s)) := by
  refine ⟨⟨fun c => ?_, active30_agrees, active30_inRange, ⟨Or.inl rfl, nofun, nofun, nofun⟩⟩, rfl⟩
  have h : ∀ c : Chan, (open202.channel c = .fresh .idle ∧ open202.checked c = false) ∨
      (open202.channel c = { ChannelRecord.fresh .clean with rateBase := some 200000 } ∧ open202.checked c = true) := by decide +kernel
  have hr := active30_inRange.1.channels c
  change (open202.channel c).WellFormed (open202.entry c) (open202.checked c)
  rcases h c with ⟨h₁, h₂⟩ | ⟨h₁, h₂⟩ <;> rw [h₁, h₂]
  · exact ⟨Nat.zero_le _, rfl, fun _ => rfl, nofun, by decide, by decide, by decide, nofun, nofun⟩
  · exact ⟨Nat.zero_le _, rfl, fun _ => rfl, nofun, by decide, by decide, by decide, fun _ => rfl, nofun⟩

end Sys2Proof.Tests
end

section
/-! ### Cycle numbers (R2) -/

namespace Sys2Proof.Machine

/-- The difference of two cycle numbers modulo 65,536, written without a truncated subtraction. -/
theorem cycleNo_toNat_sub (a b : CycleNo) : (a - b).toNat = (a.toNat + 65536 - b.toNat) % 65536 := by
  have hb : b.toNat < 65536 := b.isLt
  rw [BitVec.toNat_sub]
  congr 1
  omega

theorem ahead_iff (a b : CycleNo) : ahead a b = true ↔
    1 ≤ (a.toNat + 65536 - b.toNat) % 65536 ∧ (a.toNat + 65536 - b.toNat) % 65536 ≤ 32767 := by
  rw [ahead, decide_eq_true_iff, cycleNo_toNat_sub]

theorem reached_iff (c n : CycleNo) : reached c n = true ↔ ¬ ahead n c = true := by
  simp [reached]

@[simp] theorem ahead_self (a : CycleNo) : ahead a a = false := by
  simp [ahead]

@[simp] theorem reached_self (a : CycleNo) : reached a a = true := by
  simp [reached_iff]

/-- Settles O8: the three words by their equivalences, and the manual's figures by evaluation. -/
theorem cycleNumbersCompareModulo : Obligations.CycleNumbersCompareModulo := by
  unfold Obligations.CycleNumbersCompareModulo
  have figures : ahead 3 65534 = true ∧ reached 10 10 = true ∧ reached 10 9 = true ∧ reached 10 11 = false := by decide
  exact ⟨ahead_iff, reached_iff, fun a => ⟨ahead_self a, reached_self a⟩, figures⟩

end Sys2Proof.Machine
end

section
/-! ### The tracker and the tables through an open, a close, a lost cycle and an arrival (R24 to R39) -/

namespace Sys2Proof.Machine

/-! #### Closes, link loss and lost cycles -/

theorem startTimer_tracker (s : State) : (startTimer s).tracker = { s.tracker with timer := some s.params.cycleTimeout } := rfl

@[simp] theorem submit_params (n : Option CycleNo) (b : RecordBody) (s : State) : (submit n b s).params = s.params :=
  State.params_congr (submit_tables n b s)

@[simp] theorem staleTrigger_params (n : CycleNo) (m : Vector Bool 96) (s : State) : (staleTrigger n m s).params = s.params :=
  State.params_congr (staleTrigger_tables n m s)

@[simp] theorem closeCycle_params (k : CloseKind) (s : State) : (closeCycle k s).params = s.params :=
  State.params_congr (closeCycle_tables k s)

/-- The state in which a close makes its three stages: its record submitted, CLOSED, the timer restarted (R33). -/
def closing (k : CloseKind) (s : State) : State :=
  { submitIncomplete k s with
    tracker := { s.tracker with state := .closed, timer := some s.params.cycleTimeout } }

theorem closing_tables (k : CloseKind) (s : State) : (closing k s).tables = s.tables := by cases k <;> rfl
theorem closing_channels (k : CloseKind) (s : State) : (closing k s).channels = s.channels := by cases k <;> rfl
theorem closing_txD (k : CloseKind) (s : State) : (closing k s).txD = s.txD := by cases k <;> rfl
theorem closing_forward (k : CloseKind) (s : State) : (closing k s).forward = s.forward := by cases k <;> rfl

/-- A close is its record and CLOSED with the timer restarted, and then the three stages in order (R33). -/
theorem closeCycle_eq (k : CloseKind) (s : State) :
    closeCycle k s = runPendingTest s.tracker.lastCycle (fillStage k s.tracker.lastCycle
      (staleTrigger s.tracker.lastCycle s.tracker.seen (closing k s))) := by
  have h : startTimer { submitIncomplete k s with tracker := { (submitIncomplete k s).tracker with state := .closed } } =
      closing k s := by
    cases k <;> rfl
  rw [closeCycle]
  dsimp only
  rw [h]
  rfl

/-- A close leaves the tracker CLOSED with the timer restarted, and the rest of it as it was (R33, R35). -/
theorem closeCycle_tracker (k : CloseKind) (s : State) :
    (closeCycle k s).tracker = { s.tracker with state := .closed, timer := some s.params.cycleTimeout } := by
  rw [closeCycle_eq, runPendingTest_tracker, fillStage_tracker, staleTrigger_tracker]
  rfl

/-- A link loss leaves the tracker in NOSYNC with the timer stopped (R39). -/
theorem linkLoss_tracker (s : State) : (linkLoss s).tracker = { s.tracker with state := .nosync, timer := none } := by
  simp [linkLoss]

/-- A lost cycle counts itself, and then loses the link at loss_limit, or the timer runs again (R36). -/
theorem lostCycle_tracker (s : State) :
    (lostCycle s).tracker =
      { s.tracker with
        lastCycle := s.tracker.lastCycle + 1
        consecutiveLost := s.tracker.consecutiveLost + 1
        lostTotal := saturate s.tracker.lostTotal 1
        state := if s.params.lossLimit ≤ s.tracker.consecutiveLost + 1 then .nosync else s.tracker.state
        timer := if s.params.lossLimit ≤ s.tracker.consecutiveLost + 1 then none else some s.params.cycleTimeout } := by
  have hp : ∀ x, ({ s with tracker := x } : State).params = s.params := fun _ => rfl
  unfold lostCycle
  simp only [staleTrigger_params, staleTrigger_tracker, hp]
  split
  · simp [linkLoss_tracker]
  · simp [startTimer_tracker, hp]

/-! #### Opens -/

/-- An open writes no bank: a swap exchanges the roles alone (R131, R139). -/
theorem tableStoreOpen_banks (n : CycleNo) (s : State) :
    (tableStoreOpen n s).tables.bankA = s.tables.bankA ∧ (tableStoreOpen n s).tables.bankB = s.tables.bankB := by
  have hswap : (swapAtOpen n s).tables.bankA = s.tables.bankA ∧ (swapAtOpen n s).tables.bankB = s.tables.bankB := by
    unfold swapAtOpen
    repeat' split
    · exact ⟨rfl, rfl⟩
    · unfold swap; dsimp only; split <;> simp [TableStore.swapped]
    · exact ⟨rfl, rfl⟩
  unfold tableStoreOpen modeChangeAtOpen
  repeat' split
  all_goals simp [hswap]

theorem openCycle_banks (n : CycleNo) (i : Nat) (s : State) :
    (openCycle n i s).tables.bankA = s.tables.bankA ∧ (openCycle n i s).tables.bankB = s.tables.bankB := by
  simpa [openCycle] using tableStoreOpen_banks n (beginCycle n i s)

/-- An open leaves the tracker OPEN at its number and index, nothing seen, and the timer running with the timeout then active (R31). -/
theorem openCycle_tracker (n : CycleNo) (i : Nat) (s : State) :
    (openCycle n i s).tracker =
      { s.tracker with
        state := .opened, lastCycle := n, lastIndex := i, seen := clearMap, consecutiveLost := 0
        timer := some (openCycle n i s).params.cycleTimeout } := by
  have hp : (openCycle n i s).params = (groupsOpen (tableStoreOpen n (beginCycle n i s))).params :=
    State.params_congr (by rw [openCycle, startTimer_tables])
  rw [hp, openCycle, startTimer_tracker]
  simp [beginCycle]

theorem openCycle_repeats (n : CycleNo) (i : Nat) (s : State) : (openCycle n i s).repeats = clearMap := by
  simp [openCycle, beginCycle]

/-- What an ahead arrival in CLOSED leaves of the tracker: that of its open, the skipped numbers counted (R29). -/
theorem openAhead_tracker (n : CycleNo) (i : Nat) (s : State) :
    (openAhead n i s).tracker =
      { s.tracker with
        state := .opened, lastCycle := n, lastIndex := i, seen := clearMap, consecutiveLost := 0
        timer := some (openAhead n i s).params.cycleTimeout
        lostTotal := saturate s.tracker.lostTotal (skipCount n s.tracker.lastCycle) } := by
  unfold openAhead
  dsimp only
  generalize hu : staleRun _ _ _ = u
  have hk : u.tracker = { s.tracker with lostTotal := saturate s.tracker.lostTotal (skipCount n s.tracker.lastCycle) } := by
    rw [← hu, staleRun_tracker]; dsimp only; split <;> simp
  have h := openCycle_tracker n i u
  split <;> simp [h, hk]

theorem openAhead_repeats (n : CycleNo) (i : Nat) (s : State) : (openAhead n i s).repeats = clearMap := by
  unfold openAhead
  dsimp only
  split <;> simp [openCycle_repeats]

theorem openAhead_banks (n : CycleNo) (i : Nat) (s : State) :
    (openAhead n i s).tables.bankA = s.tables.bankA ∧ (openAhead n i s).tables.bankB = s.tables.bankB := by
  unfold openAhead
  dsimp only
  generalize hu : staleRun _ _ _ = u
  have ht : u.tables = s.tables := by
    rw [← hu, staleRun_tables]; dsimp only; split <;> simp
  have h := openCycle_banks n i u
  rw [ht] at h
  split <;> simpa using h

end Sys2Proof.Machine
end

section
/-! ### The timer and the loss counts (R21, R35, R36) -/

namespace Sys2Proof.Machine

/-- The conditions on the tracker that every step keeps: the timer's and the loss counts'. -/
structure TrackSound (s : State) : Prop where
  timer : TimerSound s
  loss : LossSound s

/-- The conditions read four fields of the tracker and the active cycle parameters, and nothing else. -/
theorem TrackSound.of_fields {s t : State} (h : TrackSound s) (hs : t.tracker.state = s.tracker.state)
    (ht : t.tracker.timer = s.tracker.timer) (hc : t.tracker.consecutiveLost = s.tracker.consecutiveLost)
    (hl : t.tracker.lostTotal = s.tracker.lostTotal) (hp : t.params = s.params) : TrackSound t := by
  obtain ⟨timer, consecutive, limit, total⟩ := h
  refine ⟨?_, ?_, ?_, ?_⟩
  · rw [TimerSound, ht, hs]; exact timer
  · rw [hc]; exact consecutive
  · rw [hs, hc, hp]; exact limit
  · rw [hl]; exact total

theorem TrackSound.congr {s t : State} (h : TrackSound s) (hk : t.tracker = s.tracker) (hp : t.params = s.params) :
    TrackSound t := by
  refine h.of_fields ?_ ?_ ?_ ?_ hp <;> rw [hk]

/-- A tracker in NOSYNC with the timer stopped and its counts in range is sound under any tables. -/
theorem TrackSound.of_nosync {s : State} (hs : s.tracker.state = .nosync) (ht : s.tracker.timer = none)
    (hc : s.tracker.consecutiveLost ≤ 16) (hl : s.tracker.lostTotal ≤ 65535) : TrackSound s :=
  ⟨⟨fun _ => hs, fun _ => ht⟩, hc, fun h => absurd hs h, hl⟩

/-- A tracker in sync with the timer running is sound while consecutive_lost is below the active loss_limit. -/
theorem TrackSound.of_running {s : State} (hs : s.tracker.state ≠ .nosync) (ht : s.tracker.timer ≠ none)
    (hc : s.tracker.consecutiveLost ≤ 16) (hp : s.tracker.consecutiveLost < s.params.lossLimit)
    (hl : s.tracker.lostTotal ≤ 65535) : TrackSound s :=
  ⟨⟨fun h => absurd h ht, fun h => absurd h hs⟩, hc, fun _ => hp, hl⟩

theorem saturate_le (n k : Nat) : saturate n k ≤ 65535 := Nat.min_le_left ..

/-! ### What commands leave of the tracker and the active bank -/

/-- The tracker and the active bank stand. -/
structure KeepsTrack (s t : State) : Prop where
  tracker : t.tracker = s.tracker
  bank : t.tables.activeBank = s.tables.activeBank

theorem KeepsTrack.refl (s : State) : KeepsTrack s s := ⟨rfl, rfl⟩

theorem KeepsTrack.of_tables {s t : State} (hk : t.tracker = s.tracker) (ht : t.tables = s.tables) : KeepsTrack s t :=
  ⟨hk, congrArg _ ht⟩

theorem KeepsTrack.params {s t : State} (h : KeepsTrack s t) : t.params = s.params := congrArg Bank.cycle h.bank

theorem TrackSound.keep {s t : State} (h : TrackSound s) (hk : KeepsTrack s t) : TrackSound t := h.congr hk.tracker hk.params

/-- What every command but RESET leaves: the tracker, the active bank and the Forward Queue. -/
structure CommandFrame (s t : State) : Prop extends KeepsTrack s t where
  forward : t.forward = s.forward

theorem CommandFrame.refl (s : State) : CommandFrame s s := ⟨.refl s, rfl⟩

theorem CommandFrame.of_tables {s t : State} (hk : t.tracker = s.tracker) (ht : t.tables = s.tables)
    (hf : t.forward = s.forward) : CommandFrame s t := ⟨.of_tables hk ht, hf⟩

@[simp] theorem tryRearm_tracker (how : RearmHow) (g : Grp) (s : State) : (tryRearm how g s).1.tracker = s.tracker := by
  unfold tryRearm; repeat' split
  all_goals simp

@[simp] theorem tryRearm_tables (how : RearmHow) (g : Grp) (s : State) : (tryRearm how g s).1.tables = s.tables := by
  unfold tryRearm; repeat' split
  all_goals simp

@[simp] theorem tryRearm_forward (how : RearmHow) (g : Grp) (s : State) : (tryRearm how g s).1.forward = s.forward := by
  unfold tryRearm; repeat' split
  all_goals simp

theorem rearmOver_frame (l : List Grp) (s : State) : CommandFrame s (rearmOver l s).1 := by
  induction l generalizing s with
  | nil => exact .refl s
  | cons g l ih =>
    obtain ⟨⟨hk, hb⟩, hf⟩ := ih (tryRearm .command g s).1
    exact ⟨⟨by rw [rearmOver, hk, tryRearm_tracker], by rw [rearmOver, hb, tryRearm_tables]⟩,
      by rw [rearmOver, hf, tryRearm_forward]⟩

/-- A write changes the staging bank and a mark, and no active record (R16). -/
theorem TableStore.writeChannel_activeBank (t : TableStore) (c : Chan) (e : ChannelEntry) :
    (t.writeChannel c e).activeBank = t.activeBank := t.setStaging_activeBank _

theorem TableStore.writeGroup_activeBank (t : TableStore) (g : Grp) (e : GroupEntry) :
    (t.writeGroup g e).activeBank = t.activeBank := t.setStaging_activeBank _

theorem TableStore.writeCycle_activeBank (t : TableStore) (p : CycleParams) :
    (t.writeCycle p).activeBank = t.activeBank := t.setStaging_activeBank _

theorem writeItems_frame (r : Nat → Nat → Bool) (l : FieldList) (w : TableStore → TableStore) (s : State)
    (hw : (w s.tables).activeBank = s.tables.activeBank) : CommandFrame s (writeItems r l w s).state := by
  unfold writeItems refuse
  repeat' split
  · exact .refl s
  · exact .refl s
  · exact .refl s
  · exact ⟨⟨rfl, hw⟩, rfl⟩

theorem runTrip_frame (args : List Byte) (s : State) : CommandFrame s (runTrip args s).state := by
  unfold runTrip refuse
  repeat' split
  · exact .refl s
  · exact .refl s
  · exact .of_tables (tripGroups_tracker ..) (tripGroups_tables ..) (tripGroups_forward ..)

theorem runRearm_frame (args : List Byte) (s : State) : CommandFrame s (runRearm args s).state := by
  unfold runRearm refuse
  split
  · exact .refl s
  · exact .of_tables (tryRearm_tracker ..) (tryRearm_tables ..) (tryRearm_forward ..)
  · dsimp only; exact rearmOver_frame allGroups s

theorem runWriteChannel_frame (args : List Byte) (s : State) : CommandFrame s (runWriteChannel args s).state := by
  unfold runWriteChannel refuse
  repeat' split
  · exact .refl s
  · exact writeItems_frame _ _ _ s (TableStore.writeChannel_activeBank ..)
  · exact .refl s

theorem runWriteGroup_frame (args : List Byte) (s : State) : CommandFrame s (runWriteGroup args s).state := by
  unfold runWriteGroup refuse
  repeat' split
  · exact .refl s
  · exact writeItems_frame _ _ _ s (TableStore.writeGroup_activeBank ..)
  · exact .refl s

theorem runWriteCycle_frame (args : List Byte) (s : State) : CommandFrame s (runWriteCycle args s).state := by
  unfold runWriteCycle refuse
  split
  · exact writeItems_frame _ _ _ s (TableStore.writeCycle_activeBank ..)
  · exact .refl s

/-- The commands of the catalogue but for RESET leave the tracker, the active bank and the Forward Queue (R16 to R19, R83, R110 to R167,
R176, R177). -/
theorem commandTable_frame {code : Byte} {run : List Byte → State → Answer} (h : (code, run) ∈ commandTable)
    (hc : code ≠ 0x60) (args : List Byte) (s : State) : CommandFrame s (run args s).state := by
  simp only [commandTable, List.mem_cons, Prod.mk.injEq, List.not_mem_nil, or_false] at h
  rcases h with ⟨-, rfl⟩ | ⟨-, rfl⟩ | ⟨-, rfl⟩ | ⟨-, rfl⟩ | ⟨-, rfl⟩ | ⟨-, rfl⟩ | ⟨-, rfl⟩ | ⟨-, rfl⟩ | ⟨-, rfl⟩ | ⟨-, rfl⟩ |
    ⟨-, rfl⟩ | ⟨-, rfl⟩ | ⟨-, rfl⟩ | ⟨-, rfl⟩ | ⟨-, rfl⟩ | ⟨-, rfl⟩ | ⟨-, rfl⟩ | ⟨-, rfl⟩ | ⟨-, rfl⟩ | ⟨-, rfl⟩ | ⟨h, -⟩
  · unfold runIdentify refuse; split <;> exact .refl s
  · unfold runStatus refuse; split <;> exact .refl s
  · unfold runReadChannel refuse; repeat' split
    all_goals exact .refl s
  · exact runWriteChannel_frame args s
  · unfold runReadGroup refuse; repeat' split
    all_goals exact .refl s
  · exact runWriteGroup_frame args s
  · unfold runReadCycle refuse; repeat' split
    all_goals exact .refl s
  · exact runWriteCycle_frame args s
  · unfold runCommit refuse; repeat' split
    all_goals exact ⟨⟨rfl, rfl⟩, rfl⟩
  · unfold runCancel refuse; split <;> exact ⟨⟨rfl, rfl⟩, rfl⟩
  · unfold runBypass refuse; repeat' split
    all_goals exact ⟨⟨rfl, rfl⟩, rfl⟩
  · unfold runChannelState refuse; repeat' split
    all_goals exact .refl s
  · unfold runGroupState refuse; repeat' split
    all_goals exact .refl s
  · exact runTrip_frame args s
  · exact runRearm_frame args s
  · unfold runLogRead refuse; repeat' split
    all_goals exact .refl s
  · unfold runLogAck refuse; repeat' split
    all_goals exact ⟨⟨rfl, rfl⟩, rfl⟩
  · unfold runLogClear refuse; split <;> exact ⟨⟨rfl, rfl⟩, rfl⟩
  · unfold runTestCommand refuse; repeat' split
    all_goals exact ⟨⟨rfl, rfl⟩, rfl⟩
  · unfold runTestResult refuse; repeat' split
    all_goals exact ⟨⟨rfl, rfl⟩, rfl⟩
  · exact absurd h hc

theorem resetRuntimeOp_tracker (s : State) :
    (resetRuntimeOp s).tracker = { s.tracker with consecutiveLost := 0, lostTotal := 0 } := rfl

theorem resetRuntimeOp_tables (s : State) : (resetRuntimeOp s).tables = s.tables := by simp [resetRuntimeOp]

theorem TrackSound.resetRuntime {s : State} (h : TrackSound s) : TrackSound (resetRuntimeOp s) := by
  obtain ⟨timer, -, limit, -⟩ := h
  have hk := resetRuntimeOp_tracker s
  have hp : (resetRuntimeOp s).params = s.params := State.params_congr (resetRuntimeOp_tables s)
  refine ⟨?_, ?_, ?_, ?_⟩
  · rw [TimerSound, hk]; exact timer
  · rw [hk]; exact Nat.zero_le 16
  · rw [hk, hp]; exact fun hs => Nat.zero_lt_of_lt (limit hs)
  · rw [hk]; exact Nat.zero_le 65535

theorem trackSound_resetDevice (s : State) : TrackSound (resetDeviceOp s) :=
  .of_nosync rfl rfl (Nat.zero_le _) (Nat.zero_le _)

theorem TrackSound.runResetRuntime {s : State} (h : TrackSound s) (args : List Byte) :
    TrackSound (runResetRuntime args s).state := by
  unfold Machine.runResetRuntime
  split
  · exact h.resetRuntime
  · exact h

theorem TrackSound.runResetLog {s : State} (h : TrackSound s) (args : List Byte) : TrackSound (runResetLog args s).state := by
  unfold Machine.runResetLog
  split
  · exact h.keep ⟨rfl, rfl⟩
  · exact h

theorem TrackSound.runResetDevice {s : State} (h : TrackSound s) (args : List Byte) :
    TrackSound (runResetDevice args s).state := by
  unfold Machine.runResetDevice
  split
  · exact trackSound_resetDevice s
  · exact h

theorem TrackSound.runReset {s : State} (h : TrackSound s) (args : List Byte) : TrackSound (runReset args s).state := by
  unfold Machine.runReset
  split
  · exact h.runResetRuntime args
  · exact h.runResetLog args
  · exact h.runResetDevice args
  · exact h

/-- Whatever command the Executor carries out, the tracker stays sound (R171). -/
theorem trackSound_carryOut {s : State} {run : List Byte → State → Answer}
    (hr : ∀ args, TrackSound (run args s).state) (c : Command) : TrackSound (carryOut run c s) := by
  refine (hr c.args).keep ?_
  unfold Machine.carryOut placeReply
  dsimp only
  split <;> exact ⟨rfl, rfl⟩

theorem TrackSound.command {s : State} (h : TrackSound s) {code : Byte} {run : List Byte → State → Answer}
    (hr : (code, run) ∈ commandTable) (args : List Byte) : TrackSound (run args s).state := by
  by_cases hc : code = 0x60
  · have hx : ∀ p ∈ commandTable, p.1 = 0x60 → p.2 = Machine.runReset := by
      simp [commandTable]
    rw [show run = Machine.runReset from hx _ hr hc]
    exact h.runReset args
  · exact h.keep (commandTable_frame hr hc args s).toKeepsTrack

theorem TrackSound.takeHead {s : State} (h : TrackSound s) (is : Command → Bool) {run : List Byte → State → Answer}
    (hr : ∀ u, TrackSound u → ∀ args, TrackSound (run args u).state) : TrackSound (takeHead is run s) := by
  unfold Machine.takeHead
  split
  · exact h
  · split
    · rename_i c rest _ _
      have hu : TrackSound { s with cmdFifo := rest } := h.keep ⟨rfl, rfl⟩
      exact trackSound_carryOut (hr _ hu) c
    · exact h

theorem TrackSound.executorTakes {s : State} (h : TrackSound s) : TrackSound (executorTakes s) := by
  unfold Machine.executorTakes
  split
  · exact h
  · refine h.takeHead _ fun u hu args => ?_
    cases hcat : catalogue _ with
    | none => exact hu
    | some run => exact hu.command (catalogue_mem hcat) args

/-! ### The tracker's operations keep it sound -/

theorem TablesInRange.lossLimit {s : State} (h : TablesInRange s.tables) : 1 ≤ s.params.lossLimit ∧ s.params.lossLimit ≤ 16 := by
  unfold State.params TableStore.activeBank
  cases s.tables.active
  · exact h.1.lossLimit
  · exact h.2.lossLimit

theorem TablesInRange.of_banks {t u : TableStore} (h : TablesInRange t) (hb : u.bankA = t.bankA ∧ u.bankB = t.bankB) :
    TablesInRange u := by
  rw [TablesInRange, hb.1, hb.2]; exact h

theorem TrackSound.settle {s : State} (h : TrackSound s) : TrackSound (settle s) :=
  h.keep (.of_tables (settle_tracker s) (settle_tables s))

theorem TrackSound.submit {s : State} (h : TrackSound s) (n : Option CycleNo) (b : RecordBody) : TrackSound (submit n b s) :=
  h.keep (.of_tables (submit_tracker n b s) (submit_tables n b s))

theorem TrackSound.closeCycle {s : State} (h : TrackSound s) (ho : s.tracker.state = .opened) (k : CloseKind) :
    TrackSound (closeCycle k s) := by
  have hs : s.tracker.state ≠ .nosync := by rw [ho]; decide
  refine .of_running ?_ ?_ ?_ ?_ ?_ <;> simp only [closeCycle_tracker, closeCycle_params]
  · decide
  · simp
  · exact h.loss.consecutive
  · exact h.loss.limit hs
  · exact h.loss.total

theorem TrackSound.linkLoss {s : State} (h : TrackSound s) : TrackSound (linkLoss s) := by
  refine .of_nosync ?_ ?_ ?_ ?_ <;> simp only [linkLoss_tracker]
  · exact h.loss.consecutive
  · exact h.loss.total

/-- consecutive_lost stays within 16, because the link is lost where it meets a loss_limit of no more than 16 (R36). -/
theorem TrackSound.lostCycle {s : State} (h : TrackSound s) (hr : TablesInRange s.tables) (hs : s.tracker.state ≠ .nosync) :
    TrackSound (lostCycle s) := by
  have hlt := h.loss.limit hs
  have hle := hr.lossLimit.2
  have hp : (Machine.lostCycle s).params = s.params := State.params_congr (lostCycle_tables s)
  have ht := lostCycle_tracker s
  by_cases hm : s.params.lossLimit ≤ s.tracker.consecutiveLost + 1
  · simp only [hm, if_true] at ht
    refine .of_nosync ?_ ?_ ?_ ?_ <;> rw [ht]
    · exact Nat.lt_of_lt_of_le hlt hle
    · exact saturate_le ..
  · simp only [hm, if_false] at ht
    refine .of_running ?_ ?_ ?_ ?_ ?_ <;> rw [ht]
    · exact hs
    · simp
    · exact Nat.lt_of_lt_of_le hlt hle
    · rw [hp]; exact Nat.lt_of_not_le hm
    · exact saturate_le ..

theorem trackSound_openCycle {s : State} (hl : s.tracker.lostTotal ≤ 65535) (hr : TablesInRange s.tables) (n : CycleNo) (i : Nat) :
    TrackSound (openCycle n i s) := by
  have hlim := (hr.of_banks (openCycle_banks n i s)).lossLimit.1
  refine .of_running ?_ ?_ ?_ ?_ ?_ <;> rw [openCycle_tracker]
  · simp
  · simp
  · exact Nat.zero_le 16
  · exact hlim
  · exact hl

theorem trackSound_openAhead {s : State} (hr : TablesInRange s.tables) (n : CycleNo) (i : Nat) : TrackSound (openAhead n i s) := by
  have hlim := (hr.of_banks (openAhead_banks n i s)).lossLimit.1
  refine .of_running ?_ ?_ ?_ ?_ ?_ <;> rw [openAhead_tracker]
  · simp
  · simp
  · exact Nat.zero_le 16
  · exact hlim
  · exact saturate_le ..

theorem TrackSound.setIndex {s : State} (h : TrackSound s) (i : Nat) : TrackSound (setIndex i s) :=
  h.of_fields rfl rfl rfl rfl rfl

theorem TrackSound.arrive {s : State} (h : TrackSound s) (hr : TablesInRange s.tables) (n : CycleNo) (i : Nat) :
    TrackSound (arrive n i s).2 := by
  unfold Machine.arrive arriveUnsynced arriveSame discardWith
  split
  case h_1 =>
    split
    · exact (trackSound_openCycle h.loss.total hr n 0).submit _ _
    · exact h.keep ⟨rfl, rfl⟩
  case h_2 ho =>
    repeat' split
    · exact h.setIndex i
    · exact h.submit _ _
    · exact (h.submit _ _).setIndex i
    · exact trackSound_openAhead (by rw [closeCycle_tables]; exact hr) n i
    · exact h.submit _ _
  case h_3 =>
    split
    · exact trackSound_openAhead hr n i
    · exact h.submit _ _

/-! ### The ports -/

theorem TrackSound.setRx {s : State} (h : TrackSound s) (p : Port) (r : Receiver) : TrackSound (s.setRx p r) := by
  cases p <;> exact h.keep ⟨rfl, rfl⟩

theorem TrackSound.takeLine {s : State} (h : TrackSound s) (p : Port) {on : RxEvent → State → State}
    (hon : ∀ e u, TrackSound u → TrackSound (on e u)) (l : List Symbol) : TrackSound (takeLine p on l s) := by
  rw [takeLine_eq]
  split
  · exact h.setRx p _
  · exact hon _ _ (h.setRx p _)

theorem TrackSound.portUDown {s : State} (h : TrackSound s) : TrackSound (portUDownOp s) := by
  have hu : TrackSound { s with upU := false, rxU := .quiet, txU := none } := h.keep ⟨rfl, rfl⟩
  unfold portUDownOp
  split
  · dsimp only
    split
    · exact hu
    · exact hu.linkLoss
  · exact h

/-! ### What port D receives, and the transmitters, leave the tracker and the tables -/

theorem portUpOp_keepsTrack (p : Port) (s : State) : KeepsTrack s (portUpOp p s) := by cases p <;> exact ⟨rfl, rfl⟩

theorem portDDownOp_keepsTrack (s : State) : KeepsTrack s (portDDownOp s) := by
  unfold portDDownOp; split <;> exact ⟨rfl, rfl⟩

theorem transmitEnd_keepsTrack (p : Port) (s : State) : KeepsTrack s (transmitEnd p s) := by
  unfold transmitEnd; repeat' split
  all_goals exact ⟨rfl, rfl⟩

theorem enterReturn_keepsTrack (l : List Byte) (s : State) : KeepsTrack s (enterReturn l s) := by
  unfold enterReturn; split <;> exact ⟨rfl, rfl⟩

theorem offerCommand_keepsTrack (c : Command) (s : State) : KeepsTrack s (offerCommand c s) := by
  unfold offerCommand; split <;> exact ⟨rfl, rfl⟩

theorem offerBroadcast_keepsTrack (c : Command) (s : State) : KeepsTrack s (offerBroadcast c s) := by
  unfold offerBroadcast
  split
  · exact offerCommand_keepsTrack c s
  · exact ⟨rfl, rfl⟩

theorem countCheckError_keepsTrack (p : Port) (s : State) : KeepsTrack s (countCheckError p s) := by cases p <;> exact ⟨rfl, rfl⟩

theorem countFormatError_keepsTrack (p : Port) (s : State) : KeepsTrack s (countFormatError p s) := by cases p <;> exact ⟨rfl, rfl⟩

theorem KeepsTrack.trans {s t u : State} (h : KeepsTrack s t) (h' : KeepsTrack t u) : KeepsTrack s u :=
  ⟨h'.tracker.trans h.tracker, h'.bank.trans h.bank⟩

theorem sortCommand_keepsTrack (payload whole : List Byte) (s : State) : KeepsTrack s (sortCommand payload whole s) := by
  unfold sortCommand
  split
  · split
    · exact (enterReturn_keepsTrack whole s).trans (offerBroadcast_keepsTrack _ _)
    · split
      · exact offerCommand_keepsTrack _ s
      · exact enterReturn_keepsTrack whole s
  · exact .refl s

theorem lineEventD_keepsTrack (e : RxEvent) (s : State) : KeepsTrack s (lineEventD e s) := by
  unfold lineEventD
  split
  · exact portUpOp_keepsTrack .d s
  · exact portDDownOp_keepsTrack s
  · unfold receiveD
    split
    · exact countCheckError_keepsTrack .d s
    · exact countFormatError_keepsTrack .d s
    · split
      · exact sortCommand_keepsTrack _ _ s
      · exact enterReturn_keepsTrack _ s
  · exact countFormatError_keepsTrack .d s

theorem completeCopy_keepsTrack (s : State) : KeepsTrack s (completeCopy s) := by
  unfold completeCopy
  split
  · exact ⟨rfl, TableStore.setStaging_activeBank ..⟩
  · exact .refl s

/-! ### Whole events -/

theorem TrackSound.takeLineD {s : State} (h : TrackSound s) (line : List Pattern) : TrackSound (takeLineD line s) :=
  h.takeLine .d (fun e _ hu => hu.keep (lineEventD_keepsTrack e _)) _

theorem TrackSound.causeD {s : State} (h : TrackSound s) (c : DownCause) : TrackSound (causeD c s) := by
  cases c with
  | lossOfSignal => exact h.keep (portDDownOp_keepsTrack s)
  | violations line => exact h.takeLineD line

theorem TrackSound.transmitEndD {s : State} (h : TrackSound s) (down : Option DownCause) : TrackSound (transmitEndD down s) := by
  have he := h.keep (transmitEnd_keepsTrack .d s)
  cases down with
  | none => exact he
  | some c => exact he.causeD c

/-- An event of port U keeps the tracker sound where a SEG that finds a place does. -/
theorem TrackSound.lineEventU {s : State} (h : TrackSound s) {f : Segment → State → State} (hf : ∀ g, TrackSound (f g s))
    (e : RxEvent) : TrackSound (lineEventU f e s) := by
  unfold Machine.lineEventU
  split
  · exact h.keep (portUpOp_keepsTrack .u s)
  · exact h.portUDown
  · unfold receiveU
    split
    · exact h.keep (countCheckError_keepsTrack .u s)
    · exact h.keep (countFormatError_keepsTrack .u s)
    · repeat' split
      · exact hf _
      · exact h.keep ⟨rfl, rfl⟩
      · exact h.keep ⟨rfl, rfl⟩
  · exact h.keep (countFormatError_keepsTrack .u s)

theorem TrackSound.betweenAct {s : State} (h : TrackSound s) (b : Between) : TrackSound (betweenAct b s) := by
  refine TrackSound.settle ?_
  cases b with
  | executorTakes => exact h.executorTakes
  | tripNFall => exact h.keep (.of_tables (tripLineFall_tracker s) (tripLineFall_tables s))
  | tripNRise => exact h.keep ⟨rfl, rfl⟩
  | bankCopyComplete => exact h.keep (completeCopy_keepsTrack s)
  | transmitEndU => exact h.keep (transmitEnd_keepsTrack .u s)
  | transmitEndD down => exact h.transmitEndD down
  | portDLine line => exact h.takeLineD line
  | portDSignalLoss => exact h.keep (portDDownOp_keepsTrack s)
  | portULine line =>
    dsimp only
    unfold takeBeside
    split
    · exact h
    · exact h.takeLine .u (fun e u hu => hu.lineEventU (fun _ => hu) e) _

theorem TrackSound.betweenActs {s : State} (h : TrackSound s) (l : List Between) : TrackSound (betweenActs l s) := by
  induction l generalizing s with
  | nil => exact h
  | cons b l ih => exact ih (h.betweenAct b)

/-! ### A segment's work -/

theorem TrackSound.sampleWork {s : State} (h : TrackSound s) (x : SampleEntry) : TrackSound (sampleWork x s).1 := by
  by_cases ho : s.tracker.state = .opened
  · obtain ⟨hf, -⟩ := sampleWork_spec x s ho
    refine h.of_fields ?_ ?_ ?_ ?_ (State.params_congr hf.tables) <;> rw [hf.tracker]
  · rw [Machine.sampleWork, if_pos ho]; exact h

theorem TrackSound.workDone {s : State} (h : TrackSound s) (left : List SampleEntry) : TrackSound (workDone left s) := by
  unfold Machine.workDone
  refine TrackSound.settle ?_
  split
  · exact h.keep ⟨rfl, rfl⟩
  · exact h

theorem TrackSound.workSamples {s : State} (h : TrackSound s) (g : Segment) (done left : List SampleEntry)
    (between : List (List Between)) : TrackSound (workSamples g done left between s) := by
  induction left generalizing done between s with
  | nil =>
    rw [Machine.workSamples]
    induction between generalizing s with
    | nil => exact h
    | cons l between ih => exact ih (h.betweenActs l)
  | cons x left ih =>
    rw [Machine.workSamples]
    refine ih (TrackSound.workDone ?_ left) _ _
    exact ((h.betweenActs _).sampleWork x).keep ⟨rfl, rfl⟩

theorem TrackSound.closeOnLast {s : State} (h : TrackSound s) (last : Bool) : TrackSound (closeOnLast last s) := by
  unfold Machine.closeOnLast
  split
  · rename_i hc
    simp only [Bool.and_eq_true, beq_iff_eq] at hc
    exact h.closeCycle hc.2 .complete
  · exact h

theorem TrackSound.takeSegment {s : State} (h : TrackSound s) (hr : TablesInRange s.tables) (between : List (List Between))
    (g : Segment) : TrackSound (takeSegment between g s) := by
  have he : TrackSound (enterSegment g s) := h.keep ⟨rfl, rfl⟩
  have ha := he.arrive (by rw [enterSegment_tables]; exact hr) g.cycle g.index
  unfold Machine.takeSegment segmentArrival
  dsimp only
  repeat' split
  · exact (((ha.workDone _).workSamples ..).closeOnLast _).keep ⟨rfl, rfl⟩
  · exact ha.keep ⟨rfl, rfl⟩
  · exact ha.keep ⟨rfl, rfl⟩

/-- A port's receiver takes patterns: only a SEG that finds a place leans on the tables' ranges, which no event before it changes. -/
theorem TrackSound.takeFrom {s : State} (h : TrackSound s) (hr : TablesInRange s.tables) (p : Port) (line : List Pattern)
    (between : List (List Between)) : TrackSound (takeFrom p line between s) := by
  cases p with
  | u =>
    rw [Machine.takeFrom, takeLine_eq]
    split
    · exact h.setRx .u _
    · have hu : TrackSound (s.setRx .u ((s.rx .u).run (s.up .u) (line.map symbolOf)).1) := h.setRx .u _
      exact hu.lineEventU (fun g => hu.takeSegment hr between g) _
  | d => exact h.takeLineD line

theorem TrackSound.causeU {s : State} (h : TrackSound s) (hr : TablesInRange s.tables) (c : DownCause) :
    TrackSound (causeU c s) := by
  cases c with
  | lossOfSignal => exact h.portUDown
  | violations line => exact h.takeFrom hr .u line []

theorem TrackSound.transmitEndU {s : State} (h : TrackSound s) (hr : TablesInRange s.tables) (down : Option DownCause) :
    TrackSound (transmitEndU down s) := by
  have he := h.keep (transmitEnd_keepsTrack .u s)
  cases down with
  | none => exact he
  | some c => exact he.causeU hr c

theorem TrackSound.timerExpiry {s : State} (h : TrackSound s) (hr : TablesInRange s.tables) : TrackSound (timerExpiry s) := by
  unfold Machine.timerExpiry
  split
  · exact h
  · split
    · exact h
    · rename_i ho; exact h.closeCycle ho .byTimer
    · rename_i hc; exact h.lostCycle hr (by rw [hc]; decide)

/-! ### Every row -/

/-- The state that a row leaves is sound, for every row of the table. -/
theorem TrackSound.exec {s : State} (h : TrackSound s) (hr : TablesInRange s.tables) (i : Instr) :
    ∃ u, exec i s = .next u ∧ TrackSound u := by
  have row : ∀ u : State, TrackSound u → ∃ v, act u = .next v ∧ TrackSound v := fun u hu => ⟨_, rfl, hu.settle⟩
  have command : ∀ (code : Byte) (is : Command → Bool) (run : List Byte → State → Answer), (code, run) ∈ commandTable →
      ∃ v, act (Machine.takeHead is run s) = .next v ∧ TrackSound v := fun code is run hm =>
    row _ (h.takeHead is fun u hu args => hu.command hm args)
  cases i with
  | powerOnReset straps tripHigh =>
    exact row _ (.of_nosync rfl rfl (Nat.zero_le 16) (Nat.zero_le 65535))
  | frameReceived p line last between => exact row _ (h.takeFrom hr p _ between)
  | cycleTimerExpiry => exact row _ (h.timerExpiry hr)
  | bankCopyComplete => exact row _ (h.keep (completeCopy_keepsTrack s))
  | tripNFall => exact row _ (h.keep (.of_tables (tripLineFall_tracker s) (tripLineFall_tables s)))
  | tripNRise => exact row _ (h.keep ⟨rfl, rfl⟩)
  | portUp p line => exact row _ (h.takeFrom hr p line [])
  | portDDown cause => exact row _ (h.causeD cause)
  | portUDown cause => exact row _ (h.causeU hr cause)
  | frameTransmitEnd e =>
    obtain ⟨port, down⟩ := e
    cases port
    · exact row _ (h.transmitEndU hr down)
    · exact row _ (h.transmitEndD down)
  | frameOverlong t => exact row _ (h.takeFrom hr t.port t.line [])
  | resetRuntime => exact row _ (h.takeHead _ fun u hu args => hu.runResetRuntime args)
  | resetLog => exact row _ (h.takeHead _ fun u hu args => hu.runResetLog args)
  | resetDevice => exact row _ (h.takeHead _ fun u hu args => hu.runResetDevice args)
  | unknownCommand => exact row _ (h.takeHead _ fun u hu _ => hu)
  | identify => exact command 0x01 _ runIdentify (by simp [commandTable])
  | status => exact command 0x02 _ runStatus (by simp [commandTable])
  | readChannel => exact command 0x10 _ runReadChannel (by simp [commandTable])
  | writeChannel => exact command 0x11 _ runWriteChannel (by simp [commandTable])
  | readGroup => exact command 0x12 _ runReadGroup (by simp [commandTable])
  | writeGroup => exact command 0x13 _ runWriteGroup (by simp [commandTable])
  | readCycle => exact command 0x14 _ runReadCycle (by simp [commandTable])
  | writeCycle => exact command 0x15 _ runWriteCycle (by simp [commandTable])
  | commit => exact command 0x20 _ runCommit (by simp [commandTable])
  | cancel => exact command 0x21 _ runCancel (by simp [commandTable])
  | bypass => exact command 0x22 _ runBypass (by simp [commandTable])
  | channelState => exact command 0x30 _ runChannelState (by simp [commandTable])
  | groupState => exact command 0x31 _ runGroupState (by simp [commandTable])
  | trip => exact command 0x32 _ runTrip (by simp [commandTable])
  | rearm => exact command 0x33 _ runRearm (by simp [commandTable])
  | logRead => exact command 0x40 _ runLogRead (by simp [commandTable])
  | logAck => exact command 0x41 _ runLogAck (by simp [commandTable])
  | logClear => exact command 0x42 _ runLogClear (by simp [commandTable])
  | test => exact command 0x50 _ runTestCommand (by simp [commandTable])
  | testResult => exact command 0x51 _ runTestResult (by simp [commandTable])

/-- Settles O59: the conditions hold of the state that every row leaves, and an idle step changes nothing. -/
theorem timerAndLossCountsStaySound : Obligations.TimerAndLossCountsStaySound := by
  unfold Obligations.TimerAndLossCountsStaySound
  intro s t timer loss inRange hstep
  unfold step at hstep
  split at hstep
  · cases hstep; exact ⟨timer, loss⟩
  · rename_i i rest _
    have hs : TrackSound { s with pending := rest } := TrackSound.keep ⟨timer, loss⟩ ⟨rfl, rfl⟩
    obtain ⟨u, hu, sound⟩ := hs.exec inRange i
    rw [hu] at hstep
    cases hstep
    exact ⟨sound.timer, sound.loss⟩

end Sys2Proof.Machine
end

section
/-! ### A run of trip requests, link loss, and port U's going DOWN (R38, R39, R109, R187, R195) -/

namespace Sys2Proof.Machine

theorem KeepsRecords.refl (l : FaultLog) : KeepsRecords l l := List.take_length

theorem mem_groupsWith (s : State) (p : GroupEntry → Bool) (g : Grp) : g ∈ s.groupsWith p ↔ p (s.groupEntry g) = true := by
  simp [State.groupsWith, allGroups]

/-- Requests of one cause to the groups whose entry a predicate picks: each of those takes one, in ACTIVE alone (R104 to R106). -/
theorem tripGroups_groupsWith_group (s : State) (k : TripCause) (p : GroupEntry → Bool) (g : Grp) :
    (tripGroups k (s.groupsWith p) s).group g =
      if s.tables.deviceMode = .active ∧ p (s.groupEntry g) = true then afterRequest s g k none s.stamp else s.group g := by
  cases hm : s.tables.deviceMode
  · simp [tripGroups_bypass hm]
  · simp [tripGroups_group hm k _ (groupsWith_nodup s p), mem_groupsWith]

/-- The records of those requests, where the log has room for eight (R104, R118). -/
theorem tripGroups_groupsWith_newRecords {s : State} (hr : s.log.records.length ≤ 56) (k : TripCause) (p : GroupEntry → Bool) :
    newRecords s.log (tripGroups k (s.groupsWith p) s).log = tripRecords s (fun g => p (s.groupEntry g)) k s.stamp := by
  have hlen := groupsWith_length s p
  cases hm : s.tables.deviceMode
  · simp [tripGroups_bypass hm, newRecords, tripRecords, hm]
  · rw [tripGroups_newRecords hm k _ (groupsWith_nodup s p) (by omega), State.groupsWith, List.filter_filter]
    simp [tripRecords, hm, Bool.and_comm]

/-- LINK LOST, and the state in which the link_bound groups are then requested: NOSYNC with the timer stopped (R39). -/
def linkEnded (s : State) : State :=
  { submit s.stamp (.linkLost s.tracker.consecutiveLost) s with
    tracker := { s.tracker with state := .nosync, timer := none } }

theorem linkLoss_eq (s : State) : linkLoss s = tripGroups .link ((linkEnded s).groupsWith (·.linkBound)) (linkEnded s) := rfl

theorem linkEnded_stamp (s : State) : (linkEnded s).stamp = none := State.stamp_nosync rfl

/-- A link loss requests each link_bound group without a cycle, in ACTIVE (R39, R109). -/
theorem linkLoss_group (s : State) (g : Grp) :
    (linkLoss s).group g =
      if s.tables.deviceMode = .active ∧ (s.groupEntry g).linkBound = true then afterRequest s g .link none none else s.group g := by
  rw [linkLoss_eq, tripGroups_groupsWith_group, linkEnded_stamp]
  rfl

theorem linkEnded_keeps (s : State) : KeepsRecords s.log (linkEnded s).log := submit_keeps ..

theorem linkLoss_keeps (s : State) : KeepsRecords s.log (linkLoss s).log :=
  (linkEnded_keeps s).trans (tripGroups_keeps ..)

/-- The records of a link loss, where the log has room for nine: LINK LOST, and behind it a TRIP for each ARMED link_bound group (R39,
R109). -/
theorem linkLoss_newRecords {s : State} (hs : s.tracker.state ≠ .nosync) (hr : s.log.records.length ≤ 55) :
    newRecords s.log (linkLoss s).log =
      (some s.tracker.lastCycle, .linkLost s.tracker.consecutiveLost) ::
        tripRecords s (fun g => (s.groupEntry g).linkBound) .link none := by
  have hlog : (linkEnded s).log = (submit s.stamp (.linkLost s.tracker.consecutiveLost) s).log := rfl
  have hlen : (linkEnded s).log.records.length ≤ 56 := by
    rw [hlog, submit_log_below (by omega)]; simp; omega
  rw [linkLoss_eq, newRecords_append (linkEnded_keeps s) (tripGroups_keeps ..), tripGroups_groupsWith_newRecords hlen, hlog,
    newRecords_submit (by omega), linkEnded_stamp, State.stamp_synced hs]
  rfl

/-! #### Violations within reach (R187) -/

theorem take_append_take {α : Type} (n : Nat) (a b : List α) : (a ++ b.take n).take n = (a ++ b).take n := by
  rw [List.take_append, List.take_append, List.take_take, Nat.min_eq_left (Nat.sub_le ..)]

/-- An UP receiver goes DOWN at the fourth violation mark among the last 64 (R187). -/
theorem Receiver.take_up_goesDown (r : Receiver) (x : Symbol) :
    (r.take true x).2 = some .goesDown ↔ 4 ≤ (((x == .violation) :: r.recent).take 64).count true := by
  have hd : (delimit r.frame x).2 ≠ some .goesDown := by
    cases x <;> cases r.frame <;> simp only [delimit, Arriving.more] <;> (try split) <;> exact nofun
  simp only [Receiver.take, if_true, Receiver.takeUp]
  split
  · rename_i h; exact ⟨fun _ => h, fun _ => rfl⟩
  · rename_i h; exact ⟨fun h' => absurd h' hd, fun h' => absurd h' h⟩

/-- An UP receiver that takes a symbol without an event keeps the symbol's mark in front (R187). -/
theorem Receiver.take_up_recent {r r' : Receiver} {x : Symbol} (h : r.take true x = (r', none)) :
    r'.recent = ((x == .violation) :: r.recent).take 63 := by
  simp only [Receiver.take, if_true, Receiver.takeUp] at h
  split at h
  · cases h
  · obtain ⟨rfl, -⟩ := Prod.mk.inj h
    exact (List.take_take ..)

theorem Receiver.run_up_recent {r r' : Receiver} {l : List Symbol} (hr : r.recent.length ≤ 63) (h : r.run true l = (r', none)) :
    r'.recent = ((l.map (· == .violation)).reverse ++ r.recent).take 63 := by
  induction l generalizing r with
  | nil => cases h; simp [List.take_of_length_le hr]
  | cons x l ih =>
    rw [Receiver.run] at h
    cases ht : r.take true x with
    | mk r₁ o =>
      rw [ht] at h
      cases o with
      | some e => cases h
      | none =>
        have h₁ := take_up_recent ht
        rw [ih (by rw [h₁]; simp) h, h₁, take_append_take]
        simp

/-- Behind symbols taken quietly, one more takes an UP port DOWN exactly at the fourth violation among the last 64 (R187). -/
theorem TakesQuietly.goesDown_iff {s : State} {p : Port} {l : List Pattern} {r : Receiver} (hu : s.up p = true)
    (hr : (s.rx p).recent.length ≤ 63) (h : TakesQuietly s p l r) (x : Pattern) :
    (∃ r', Brings s p (l ++ [x]) .goesDown r') ↔ 4 ≤ (lastMarks (s.rx p) ((l ++ [x]).map symbolOf)).count true := by
  unfold TakesQuietly at h
  rw [hu] at h
  have hrun : (s.rx p).run (s.up p) ((l ++ [x]).map symbolOf) = r.run true [symbolOf x] := by
    rw [hu, List.map_append, Receiver.run_append, h]; rfl
  have hmarks : lastMarks (s.rx p) ((l ++ [x]).map symbolOf) = ((symbolOf x == .violation) :: r.recent).take 64 := by
    rw [lastMarks, Receiver.run_up_recent hr h]
    simp [List.take_take]
  rw [hmarks, ← Receiver.take_up_goesDown]
  unfold Brings
  rw [hrun, Receiver.run]
  rcases r.take true (symbolOf x) with ⟨r', _ | e⟩
  · simp [Receiver.run]
  · simp

/-! #### Port U goes DOWN (R187, R195) -/

/-- What port U's own part loses as it goes DOWN: its link state, what its receiver keeps and the frame on its line (R195). -/
def cutOffU (s : State) : State := { s with upU := false, rxU := .quiet, txU := none }

theorem portUDownOp_up {s : State} (h : s.upU = true) :
    portUDownOp s = if s.tracker.state = .nosync then cutOffU s else linkLoss (cutOffU s) := by
  rw [portUDownOp, if_pos h]; rfl

/-- Whatever takes an UP port U DOWN, the part is left as by the port's going DOWN (R187, R195). -/
theorem SignalFails.causeU {s : State} {c : DownCause} (h : SignalFails s .u c) (hu : s.upU = true) :
    causeU c s = portUDownOp s := by
  rcases h with rfl | ⟨line, r, rfl, hb⟩
  · rfl
  · refine (hb.takeFrom []).trans ?_
    change portUDownOp (s.setRx .u r) = _
    rw [portUDownOp_up hu, portUDownOp_up (s := s.setRx .u r) hu]
    rfl

theorem SignalFails.congr {s t : State} {p : Port} {c : DownCause} (h : SignalFails s p c) (hr : t.rx p = s.rx p)
    (hu : t.up p = s.up p) : SignalFails t p c := by
  rcases h with h | ⟨line, r, hc, hb⟩
  · exact .inl h
  · exact .inr ⟨line, r, hc, by rw [Brings, hr, hu]; exact hb⟩

/-- Settles O14, by what a link loss leaves where port U goes DOWN outside NOSYNC. -/
theorem portUDownLosesTheLink : Obligations.PortUDownLosesTheLink := by
  unfold Obligations.PortUDownLosesTheLink
  intro s c
  have down : SignalFails s .u c → s.upU = true → exec (.portUDown c) s = .next (settle (portUDownOp s)) := fun hf hu =>
    congrArg act (hf.causeU hu)
  refine ⟨fun l x r hu hr hq => ⟨?_, hq.goesDown_iff (p := .u) hu hr x⟩, fun hu => ?_, fun hf hu => ?_,
    fun hf hu hn => ?_, fun hf hu hn => ?_⟩
  · exact congrArg act (hq.takeFrom [])
  · have : portUDownOp s = s := by rw [portUDownOp, if_neg (by rw [hu]; decide)]
    exact congrArg act this
  · have he : SignalFails (transmitEnd .u s) .u c := hf.congr rfl rfl
    rw [down hf hu]
    refine congrArg act ((he.causeU hu).trans ?_)
    rw [portUDownOp_up hu, portUDownOp_up (s := transmitEnd .u s) hu]
    rfl
  · rw [down hf hu, portUDownOp_up hu, if_pos hn]
    exact ⟨rfl, settle_ret rfl⟩
  · rw [down hf hu, portUDownOp_up hu, if_neg hn]
    refine ⟨linkLoss (cutOffU s), rfl, settle_ret (by rw [linkLoss_upU]; rfl), ?_, linkLoss_group _, fun hr =>
      ⟨linkLoss_keeps (cutOffU s), linkLoss_newRecords (s := cutOffU s) hn hr⟩⟩
    conv_lhs => rw [linkLoss_frame, linkLoss_tracker]
    rfl

/-- Settles O19, by the room of the Forward Queue. -/
theorem framesOfPortUJoinTheForwardQueue : Obligations.FramesOfPortUJoinTheForwardQueue := by
  unfold Obligations.FramesOfPortUJoinTheForwardQueue
  intro s line last f e r b kind p hd hg
  rw [hd.frameReceivedU, receiveU, hg]
  have hroom : ({ s with rxU := r } : State).forwardRoom = decide (placesTaken s.forward < 4) := rfl
  dsimp only
  rw [hroom]
  refine ⟨fun hk hp => ?_, fun hp => ?_⟩
  · rw [if_pos (decide_eq_true hp), if_neg hk]; rfl
  · rw [if_neg (by simpa using hp)]; rfl

end Sys2Proof.Machine
end

section
/-! ### Closes, lost cycles and the timer's end (R33, R35, R36) -/

namespace Sys2Proof.Machine

/-- What a close may change (R33). -/
theorem closeCycle_frame (k : CloseKind) (s : State) :
    closeCycle k s =
      { s with
        txD := (closeCycle k s).txD, forward := (closeCycle k s).forward, slotOwed := (closeCycle k s).slotOwed
        counters := (closeCycle k s).counters, tracker := (closeCycle k s).tracker, channels := (closeCycle k s).channels
        groups := (closeCycle k s).groups, faultLow := (closeCycle k s).faultLow, log := (closeCycle k s).log
        alertSlot := (closeCycle k s).alertSlot, test := (closeCycle k s).test } := by
  rw [← closeCycle_nodeAddr k s, ← closeCycle_tripHigh k s, ← closeCycle_upU k s, ← closeCycle_upD k s, ← closeCycle_rxU k s,
    ← closeCycle_rxD k s, ← closeCycle_txU k s, ← closeCycle_ret k s, ← closeCycle_replies k s, ← closeCycle_tables k s,
    ← closeCycle_repeats k s, ← closeCycle_cmdFifo k s, ← closeCycle_pending k s]

theorem runPendingTest_test_pending (n : CycleNo) (s : State) : (runPendingTest n s).test.pending = none := by
  unfold runPendingTest
  split
  · assumption
  · rfl

theorem closeCycle_test_pending (k : CloseKind) (s : State) : (closeCycle k s).test.pending = none := by
  rw [closeCycle_eq, runPendingTest_test_pending]

theorem staleTrigger_channel_congr {s t : State} (ht : t.tables = s.tables) (hc : t.channels = s.channels) (n : CycleNo)
    (seen : Vector Bool 96) (c : Chan) : (staleTrigger n seen t).channel c = (staleTrigger n seen s).channel c := by
  rw [staleTrigger_channel, staleTrigger_channel, takesStale_congr ht, State.entry_congr ht, State.channel_congr hc]

/-- A close judges the channels by its STALE evaluations alone (R33). -/
theorem closeCycle_channel (k : CloseKind) (s : State) (c : Chan) :
    (closeCycle k s).channel c = (staleTrigger s.tracker.lastCycle s.tracker.seen s).channel c := by
  have h : (closeCycle k s).channels =
      (staleTrigger s.tracker.lastCycle s.tracker.seen (closing k s)).channels := by
    rw [closeCycle_eq, runPendingTest_channels, fillStage_channels]
  rw [State.channel_congr h]
  exact staleTrigger_channel_congr (closing_tables k s) (closing_channels k s) _ _ c

theorem closeCycle_log (k : CloseKind) (s : State) :
    (closeCycle k s).log = (staleTrigger s.tracker.lastCycle s.tracker.seen (closing k s)).log := by
  rw [closeCycle_eq, runPendingTest_log, fillStage_log]

/-- The record of a close by the timer stands in front of those of its STALE evaluations (R33). -/
theorem closeCycle_byTimer_record {s : State} (ho : s.tracker.state = .opened) (hr : s.log.records.length < 64) :
    (newRecords s.log (closeCycle .byTimer s).log).head? = some (some s.tracker.lastCycle, .seq .incomplete none none) := by
  have hst : s.stamp = some s.tracker.lastCycle := State.stamp_synced (by rw [ho]; decide)
  have hlog : (closing .byTimer s).log = (submit s.stamp (.seq .incomplete none none) s).log := rfl
  rw [closeCycle_log, newRecords_append (b := (closing .byTimer s).log) (hlog ▸ submit_keeps ..) (staleTrigger_keeps ..), hlog,
    newRecords_submit hr, hst]
  rfl

/-! #### Lost cycles -/

/-- The tracker after a lost cycle is counted (R36). -/
def countedLost (k : Tracker) : Tracker :=
  { k with
    lastCycle := k.lastCycle + 1, consecutiveLost := k.consecutiveLost + 1, lostTotal := saturate k.lostTotal 1 }

/-- A lost cycle is its STALE evaluations, the tracker having counted it, and then link loss or the timer (R36). -/
theorem lostCycle_eq (s : State) :
    lostCycle s =
      let v := { staleTrigger (s.tracker.lastCycle + 1) clearMap s with tracker := countedLost s.tracker }
      if s.params.lossLimit ≤ s.tracker.consecutiveLost + 1 then linkLoss v else startTimer v := by
  unfold lostCycle
  dsimp only
  rw [staleTrigger_retrack]
  have hp : (staleTrigger (s.tracker.lastCycle + 1) clearMap s).params = s.params := staleTrigger_params ..
  generalize staleTrigger (s.tracker.lastCycle + 1) clearMap s = v at hp ⊢
  change (if v.params.lossLimit ≤ s.tracker.consecutiveLost + 1 then linkLoss { v with tracker := countedLost s.tracker } else _) = _
  rw [hp]
  rfl

/-- A lost cycle below loss_limit is its STALE evaluations and the tracker's changes (R36). -/
theorem lostCycle_below {s : State} (h : s.tracker.consecutiveLost + 1 < s.params.lossLimit) :
    lostCycle s = { staleTrigger (s.tracker.lastCycle + 1) clearMap s with tracker := (lostCycle s).tracker } := by
  rw [lostCycle_eq]
  dsimp only
  rw [if_neg (Nat.not_le.mpr h), startTimer_frame]

/-- A lost cycle at loss_limit is its STALE evaluations, the count, and link loss (R36). -/
theorem lostCycle_atLimit {s : State} (h : s.params.lossLimit ≤ s.tracker.consecutiveLost + 1) :
    lostCycle s =
      linkLoss { staleTrigger (s.tracker.lastCycle + 1) clearMap s with tracker := countedLost s.tracker } := by
  rw [lostCycle_eq]
  exact if_pos h

/-- A group that a request has reached is TRIPPED (R104, R105). -/
theorem afterRequest_tripped (s : State) (g : Grp) (k : TripCause) (c : Option Chan) (n : Option CycleNo) :
    (afterRequest s g k c n).state = .tripped := by
  unfold afterRequest
  cases h : (s.group g).state <;> simp [h]

/-- A lost cycle at loss_limit is a link loss behind its STALE evaluations, with the lost cycle's number (R36, R39, R109). -/
theorem lostCycle_losesLink {s : State} (hs : s.tracker.state ≠ .nosync) (hl : s.params.lossLimit ≤ s.tracker.consecutiveLost + 1) :
    let v := staleTrigger (s.tracker.lastCycle + 1) clearMap s
    (lostCycle s).tracker.state = .nosync ∧ (lostCycle s).tracker.timer = none ∧
      (∀ g : Grp, (lostCycle s).group g =
        if s.tables.deviceMode = .active ∧ (s.groupEntry g).linkBound = true then afterRequest v g .link none none
        else v.group g) ∧
      (s.tables.deviceMode = .active → ∀ g : Grp, (s.groupEntry g).linkBound = true →
        ((lostCycle s).group g).state = .tripped) ∧
      KeepsRecords v.log (lostCycle s).log ∧
      (v.log.records.length ≤ 55 → newRecords v.log (lostCycle s).log =
        (some (s.tracker.lastCycle + 1), .linkLost (s.tracker.consecutiveLost + 1)) ::
          tripRecords v (fun g => (s.groupEntry g).linkBound) .link none) := by
  intro v
  have htab : v.tables = s.tables := staleTrigger_tables ..
  have hloss : lostCycle s = linkLoss { v with tracker := countedLost s.tracker } := lostCycle_atLimit hl
  clear_value v
  have hentry : ∀ g, ({ v with tracker := countedLost s.tracker } : State).groupEntry g = s.groupEntry g :=
    State.groupEntry_congr htab
  have hmode : ({ v with tracker := countedLost s.tracker } : State).tables.deviceMode = s.tables.deviceMode :=
    congrArg _ htab
  have hgroup : ∀ g, (lostCycle s).group g =
      if s.tables.deviceMode = .active ∧ (s.groupEntry g).linkBound = true then afterRequest v g .link none none
      else v.group g := fun g => by
    rw [hloss, linkLoss_group, hentry, hmode]; rfl
  refine ⟨by rw [hloss, linkLoss_tracker], by rw [hloss, linkLoss_tracker], hgroup, fun hm g hb => ?_, ?_, fun hr => ?_⟩
  · rw [hgroup, if_pos ⟨hm, hb⟩]; exact afterRequest_tripped ..
  · rw [hloss]; exact linkLoss_keeps { v with tracker := countedLost s.tracker }
  · rw [hloss]
    refine (linkLoss_newRecords (s := { v with tracker := countedLost s.tracker }) hs hr).trans ?_
    simp only [hentry]
    rfl

/-- Settles O23, by the tracker's state at the timer's end. -/
theorem timerEndClosesOrLosesACycle : Obligations.TimerEndClosesOrLosesACycle := by
  unfold Obligations.TimerEndClosesOrLosesACycle
  intro s
  refine ⟨fun ht => ?_, fun ho k => ?_, fun ht ho => ?_, fun ht hc => ?_⟩
  · have h : timerExpiry s = s := if_pos ht
    exact congrArg act h
  · have hst : s.stamp = some s.tracker.lastCycle := State.stamp_synced (by rw [ho]; decide)
    rw [closeCycle_eq, closing]
    cases k <;> simp only [submitIncomplete, hst]
  · have h : timerExpiry s = closeCycle .byTimer s := by
      rw [timerExpiry, if_neg ht, ho]
    refine ⟨closeCycle .byTimer s, congrArg act h, rfl, ?_, closeCycle_test_pending .byTimer s,
      closeCycle_channel .byTimer s, closeCycle_byTimer_record ho⟩
    have htx : (closeCycle .byTimer s).txD = s.txD := by
      rw [closeCycle_eq, runPendingTest_txD, (fillStage_txD _ _ _).2 (by simp), staleTrigger_txD, closing_txD]
    conv_lhs => rw [closeCycle_frame, htx, closeCycle_tracker]
  · have hs : s.tracker.state ≠ .nosync := by rw [hc]; decide
    have h : timerExpiry s = lostCycle s := by
      rw [timerExpiry, if_neg ht, hc]
    have hk := lostCycle_tracker s
    have hkeep : KeepsRecords s.log (staleTrigger (s.tracker.lastCycle + 1) clearMap s).log := staleTrigger_keeps ..
    have hch : (lostCycle s).channels = (staleTrigger (s.tracker.lastCycle + 1) clearMap s).channels := by
      rw [lostCycle_eq]; dsimp only; split <;> simp
    rw [← show clearMap = Vector.replicate 96 false from rfl]
    refine ⟨lostCycle s, congrArg act h, ?_, ?_, ?_, ?_, ?_, ?_, hkeep, fun hl => ⟨lostCycle_below hl, ?_⟩, fun hl => ?_⟩
    · rw [← hch]; exact lostCycle_frame s
    · rw [hk]
    · rw [hk]
    · rw [hk]
    · rw [hk]
    · rw [hk]; rfl
    · have hn : ¬ s.params.lossLimit ≤ s.tracker.consecutiveLost + 1 := Nat.not_le.mpr hl
      rw [hk, if_neg hn, if_neg hn, hc]
      exact ⟨rfl, rfl⟩
    · exact lostCycle_losesLink hs hl

end Sys2Proof.Machine
end

section
/-! ### The swap at an open (R128, R131, R133) -/

namespace Sys2Proof.Machine

/-- The marks set, counted along the list of channels or along the list of marks (R133). -/
theorem markedCount_eq (m : Marks) : markedCount m = m.channels.toList.count true := by
  have h : m.channels.toList = allChannels.map fun c => m.channels[c] := by
    apply List.ext_getElem <;> simp [allChannels]
  rw [h, List.count_eq_countP, List.countP_map, List.countP_eq_length_filter, markedCount]
  congr 2
  exact funext fun c => (beq_true _).symm

/-- A record reset behind a swap is that of a checked channel, CLEAN, unless its newly active mode is OFF (R68, R80, R131). -/
theorem freshRecord_swapped (s : State) (c : Chan) :
    ({ s with tables := s.tables.swapped } : State).freshRecord c =
      .fresh (if s.tables.stagingBank.channels[c].mode = .off then .idle else .clean) := by
  have he : ({ s with tables := s.tables.swapped } : State).entry c = s.tables.stagingBank.channels[c] :=
    congrArg (fun b : Bank => b.channels[c]) s.tables.swapped_banks.1
  have hm : s.tables.swapped.deviceMode = .active := rfl
  unfold State.freshRecord State.checked
  rw [he]
  dsimp only
  rw [hm]
  cases s.tables.stagingBank.channels[c].mode <;> rfl

theorem swap_tables (n : CycleNo) (s : State) : (swap n s).tables = s.tables.swapped := by
  unfold swap; dsimp only; split <;> simp

/-- A swap resets the edited channels' records, or every record where the device mode changes, and keeps the others whole (R80, R131). -/
theorem swap_channel (n : CycleNo) (s : State) (c : Chan) :
    (swap n s).channel c =
      if s.tables.deviceMode = .bypass ∨ s.tables.marks.channels[c] = true then
        .fresh (if s.tables.stagingBank.channels[c].mode = .off then .idle else .clean)
      else s.channel c := by
  unfold swap
  dsimp only
  rw [submit_channel]
  by_cases hm : s.tables.deviceMode = .bypass
  · rw [if_pos hm, if_pos (.inl hm), resetAllRecords_channel, freshRecord_swapped]
  · rw [if_neg hm, resetRecords_channel, freshRecord_swapped]
    simp only [hm, false_or]
    rfl

/-- A submission reads no runtime record (R144, R151). -/
theorem submit_rechannel {s t : State} (h : t = { s with channels := t.channels }) (n : Option CycleNo) (b : RecordBody) :
    submit n b t = { submit n b s with channels := (submit n b t).channels } := by
  rw [submit_channels]
  conv_lhs => rw [h]
  rfl

/-- Beside the tables and the records a swap submits the COMMIT record under the newly active alert kinds, and nothing more (R131,
R133). -/
theorem swap_eq (n : CycleNo) (s : State) :
    swap n s = { submit (some n) (commitRecord s.tables.marks) { s with tables := s.tables.swapped } with
      channels := (swap n s).channels } := by
  unfold swap
  dsimp only
  split
  · exact submit_rechannel (resetAllRecords_frame _) _ _
  · exact submit_rechannel (resetRecords_frame _ _) _ _

theorem modeChangeAtOpen_idle {s : State} (h : s.tables.modeChange = false) (n : CycleNo) : modeChangeAtOpen n s = s := by
  simp [modeChangeAtOpen, h]

/-- With no mode change pending the Table Store's work at an open is the swap, where the target is reached (R128). -/
theorem tableStoreOpen_commit {s : State} {k : CommitTarget} (hc : s.tables.commit = some k) (hm : s.tables.modeChange = false)
    (n : CycleNo) : tableStoreOpen n s = if targetReached k n then swap n s else s := by
  have hs : swapAtOpen n s = if targetReached k n then swap n s else s := by rw [swapAtOpen, hc]
  rw [tableStoreOpen, hs]
  split
  · exact modeChangeAtOpen_idle (by rw [swap_tables]; exact hm) n
  · exact modeChangeAtOpen_idle hm n

theorem tableStoreOpen_idle {s : State} (hc : s.tables.commit = none) (hm : s.tables.modeChange = false) (n : CycleNo) :
    tableStoreOpen n s = s := by
  rw [tableStoreOpen, swapAtOpen, hc]
  exact modeChangeAtOpen_idle hm n

theorem targetReached_iff (k : CommitTarget) (n : CycleNo) :
    targetReached k n = true ↔ k = .next ∨ ∃ m, k = .atCycle m ∧ ahead m n = false := by
  cases k <;> simp [targetReached, reached]

/-- Settles O28, by whether the target is reached. -/
theorem commitIsMadeAtTheFirstOpenThatReachesIt : Obligations.CommitIsMadeAtTheFirstOpenThatReachesIt := by
  unfold Obligations.CommitIsMadeAtTheFirstOpenThatReachesIt
  refine ⟨fun n s hc hm => tableStoreOpen_idle hc hm n, fun n s k hc hm => ?_⟩
  have ht := tableStoreOpen_commit hc hm n
  refine ⟨fun ⟨m, hk, ha⟩ => ?_, fun hr => ?_⟩
  · rw [ht, if_neg]
    rw [targetReached_iff]
    rintro (rfl | ⟨m', rfl, ha'⟩)
    · cases hk
    · cases hk; rw [ha] at ha'; cases ha'
  · rw [if_pos ((targetReached_iff k n).mpr hr)] at ht
    rw [ht, swap_tables]
    refine ⟨rfl, s.tables.swapped_banks.1, s.tables.swapped_banks.2, swap_channel n s, ?_⟩
    rw [← markedCount_eq]
    exact swap_eq n s

/-! ### FILL entries and the place of the frame that carries them (R96, R97, R99) -/

theorem chan_toNat (c : Chan) : (BitVec.ofNat 8 c.val : Byte).toNat = c.val := by
  have := c.isLt
  rw [BitVec.toNat_ofNat]
  omega

/-- The channels filled at a close, in the order of their entries (R99). -/
theorem fillEntries_channels (s : State) (n : CycleNo) :
    (fillEntries s n).map (·.channel.toNat) = (allChannels.filter (isFilled s n)).map (·.val) := by
  rw [fillEntries, List.map_map]
  exact List.map_congr_left fun c _ => chan_toNat c

theorem fillEntries_eq_nil (s : State) (n : CycleNo) : fillEntries s n = [] ↔ allChannels.filter (isFilled s n) = [] :=
  List.map_eq_nil_iff

theorem groupTripped_iff (s : State) (e : ChannelEntry) :
    groupTripped s e = true ↔ ∃ g : Grp, e.group = some g ∧ (s.group g).state = .tripped := by
  unfold groupTripped
  cases e.group <;> simp

theorem isFilled_iff (s : State) (n : CycleNo) (c : Chan) :
    isFilled s n c = true ↔ (s.entry c).mode = .guard ∧ n.toNat % (s.entry c).period = (s.entry c).phase ∧
      s.tracker.seen[c] = false := by
  simp [isFilled, ChannelEntry.expected, and_assoc]

/-- The fill value and the quality code of a GUARD channel, by R97's table. -/
theorem fillValue_guard {s : State} {c : Chan} (h : (s.entry c).mode = .guard) :
    ((fillValue s c).1, (fillValue s c).2.code) =
      (let e := s.entry c
       let held := (s.channel c).lastGood.getD e.safeValue
       if ∃ g : Grp, e.group = some g ∧ (s.group g).state = .tripped then (e.safeValue, (3 : Byte))
       else if (s.channel c).state = .faulted then
         match e.reaction with
         | .safe => (e.safeValue, (3 : Byte))
         | .hold => (held, (3 : Byte))
         | .mark => (held, (2 : Byte))
       else (held, (3 : Byte))) := by
  unfold fillValue
  dsimp only
  rw [if_pos h]
  simp only [← groupTripped_iff]
  split
  · rfl
  · split
    · cases (s.entry c).reaction <;> rfl
    · rfl

theorem mem_fillEntries (s : State) (n : CycleNo) (x : SampleEntry) :
    x ∈ fillEntries s n ↔ ∃ c : Chan, isFilled s n c = true ∧ x.channel.toNat = c.val ∧
      (x.value, x.quality) = ((fillValue s c).1, (fillValue s c).2.code) := by
  have hch : ∀ c : Chan, x.channel = BitVec.ofNat 8 c.val ↔ x.channel.toNat = c.val := fun c => by
    rw [← BitVec.toNat_inj, chan_toNat]
  simp only [fillEntries, List.mem_map, List.mem_filter, allChannels, List.mem_finRange, true_and]
  refine exists_congr fun c => and_congr_right fun _ => ?_
  rw [← hch, Prod.mk.injEq, eq_comm, ← SampleEntry.mk.injEq]

/-- The reserved place is free (R99). -/
theorem any_reserved_eq_false {l : List Queued} : l.any (·.reserved) = false ↔ ∀ q ∈ l, q.reserved = false := by
  simp

/-- The naming of the ending frame where no FILL is placed (R34, R192; log 23). -/
theorem nameEnding_eq (k : CloseKind) (s : State) :
    nameEnding k s =
      if k = .complete then
        { s with
          forward := s.forward.map (fun q => { q with ending := q.ending || q.underway })
          txD := s.txD.map (fun f => { f with ending := f.ending || f.underway })
          slotOwed := s.slotOwed || (!s.forward.any (·.underway) && !s.txD.any (·.underway)) }
      else { s with slotOwed := true } := by
  cases k <;> rfl

/-- In ACTIVE, with channels to fill and the reserved place free, the FILL is placed (R99). -/
theorem fillStage_placed {s : State} {n : CycleNo} (hm : s.tables.deviceMode = .active) (hf : fillEntries s n ≠ [])
    (hr : ∀ q ∈ s.forward, q.reserved = false) (k : CloseKind) :
    fillStage k n s = { s with forward := placeFill k ⟨.fill n (fillEntries s n), true, true, true, false⟩ s.forward } := by
  unfold fillStage
  dsimp only
  rw [if_neg (by simp [hm, hf]), if_neg (by rw [any_reserved_eq_false.mpr hr]; decide)]

/-- In ACTIVE, with the reserved place held, the FILL is discarded and counted (R99). -/
theorem fillStage_held {s : State} {n : CycleNo} (hm : s.tables.deviceMode = .active) (hf : fillEntries s n ≠ [])
    (hr : ∃ q ∈ s.forward, q.reserved = true) (k : CloseKind) :
    fillStage k n s =
      nameEnding k { s with counters := { s.counters with forwardOverruns := saturate s.counters.forwardOverruns 1 } } := by
  unfold fillStage
  dsimp only
  rw [if_neg (by simp [hm, hf]), if_pos (List.any_eq_true.mpr hr)]

/-- In BYPASS, or with no channel to fill, no FILL is built (R33, R96). -/
theorem fillStage_unbuilt {s : State} {n : CycleNo} (h : s.tables.deviceMode = .bypass ∨ fillEntries s n = []) (k : CloseKind) :
    fillStage k n s = nameEnding k s := by
  unfold fillStage
  exact if_pos h

/-- A FILL of a close by arrival stands directly ahead of the one incomplete frame, at the tail (R28, R189). -/
theorem placeFill_byArrival (m : CycleNo) (i : Nat) (f q : Queued) {front : List Queued} (hf : ∀ x ∈ front, x.complete = true)
    (hq : q.complete = false) : placeFill (.byArrival m i) f (front ++ [q]) = front ++ [f, q] := by
  have h₁ : (front ++ [q]).takeWhile (·.complete) = front := by
    rw [List.takeWhile_append_of_pos hf]; simp [hq]
  have h₂ : (front ++ [q]).dropWhile (·.complete) = [q] := by
    rw [List.dropWhile_append_of_pos hf]; simp [hq]
  rw [placeFill, h₁, h₂]

/-- Settles O35, by the filled channels and the three ways of the FILL stage. -/
theorem fillFrameCarriesTheMissingGuardChannels : Obligations.FillFrameCarriesTheMissingGuardChannels := by
  unfold Obligations.FillFrameCarriesTheMissingGuardChannels
  intro s n
  refine ⟨?_, fun x => ?_, fun hm hf hr => ⟨?_, ?_, fun front q m i hs hc hq => ?_⟩, fun hm hf hr k => ?_, fun h k => ?_⟩
  · rw [fillEntries_channels]
    exact ((List.pairwise_lt_finRange 96).filter _).map _ fun _ _ h => h
  · rw [mem_fillEntries]
    refine exists_congr fun c => ?_
    rw [isFilled_iff]
    constructor
    · rintro ⟨⟨hg, he, hs⟩, hx, hv⟩
      exact ⟨hx, hg, he, hs, hv.trans (fillValue_guard hg)⟩
    · rintro ⟨hx, hg, he, hs, hv⟩
      exact ⟨⟨hg, he, hs⟩, hx, hv.trans (fillValue_guard hg).symm⟩
  · rw [fillStage_placed hm hf hr]; rfl
  · rw [fillStage_placed hm hf hr]; rfl
  · rw [fillStage_placed hm hf hr, hs, placeFill_byArrival m i _ q hc hq]
  · rw [fillStage_held hm hf hr]; exact nameEnding_eq k _
  · rw [fillStage_unbuilt h]; exact nameEnding_eq k s

/-! ### TEST and TEST-RESULT (R158, R159, R160, R167) -/

theorem chanOf_byte (c : Chan) : chanOf (BitVec.ofNat 8 c.val : Byte).toNat = some c := by
  rw [chan_toNat, chanOf, dif_pos c.isLt]

theorem expectationOf_bytes {e : Expectation} (h : e.InRange) :
    expectationOf (BitVec.ofNat 8 e.kind.code) e.bytes = some e := by
  cases e with
  | limit high low => cases high <;> cases low <;> decide
  | rate raised => cases raised <;> decide
  | qualify n =>
    obtain ⟨h₁, h₂⟩ := h n rfl
    have hn : (BitVec.ofNat 8 n).toNat = n := by rw [BitVec.toNat_ofNat]; omega
    simp [Expectation.kind, Expectation.bytes, TestKind.code, byte1, expectationOf, -BitVec.toNat_ofNat, hn, h₁, h₂]
  | fill v =>
    have hv := word3_bytes v
    simp [Expectation.kind, Expectation.bytes, TestKind.code, byte3, expectationOf, -BitVec.ofNat_toNat, hv]

/-- The argument bytes of a TEST are read back as the test they carry (R158, R181). -/
theorem testOf_args {p : PendingTest} (h : p.expectation.InRange) : testOf p.args = some p := by
  have hv := word3_bytes p.value
  simp only [PendingTest.args, byte1, byte3, List.cons_append, List.nil_append, testOf, chanOf_byte, expectationOf_bytes h, hv]

/-- A run on a channel that is not OFF ends PASS or FAIL (R160). -/
theorem testFinding_decided {s : State} {p : PendingTest} (h : (s.entry p.channel).mode ≠ .off) :
    (testFinding p s).outcome = .pass ∨ (testFinding p s).outcome = .fail := by
  have hp : ∀ a o, (passIf a o).outcome = .pass ∨ (passIf a o).outcome = .fail := fun a o => by cases a <;> simp [passIf]
  rw [testFinding, if_neg h]
  cases p.expectation with
  | limit high low => exact hp _ _
  | rate raised =>
    dsimp only
    unfold rateFinding
    split
    · exact .inr rfl
    · exact hp _ _
  | qualify n => exact hp _ _
  | fill v => exact hp _ _

theorem runPendingTest_some {s : State} {p : PendingTest} (h : s.test.pending = some p) (n : CycleNo) :
    runPendingTest n s = runTest p (some n) s := by
  rw [runPendingTest, h]

/-- TEST of a test in range, by the mode, the pending test, the channel's mode and the tracker's state (R158, R159). -/
theorem runTestCommand_eq {p : PendingTest} (h : p.expectation.InRange) (s : State) :
    runTestCommand p.args s =
      if s.tables.deviceMode = .bypass then refuse s .mode
      else s.test.pending.elim
        (if (s.entry p.channel).mode = .off then refuse s .badArg (.offChannel p.channel)
          else if s.tracker.state = .nosync then ⟨runTest p none s, .ok, .testRan⟩
          else ⟨{ s with test := { s.test with pending := some p } }, .ok, .testPending⟩)
        (fun q => refuse s .busy (.busyTest q.expectation.kind q.channel)) := by
  rw [runTestCommand, testOf_args h]
  dsimp only
  split
  · rfl
  · cases s.test.pending <;> rfl

/-- Settles O49, by the refusals in their order and the run of a test in range. -/
theorem testCommandsAcceptRunAndReport : Obligations.TestCommandsAcceptRunAndReport := by
  unfold Obligations.TestCommandsAcceptRunAndReport
  refine ⟨fun n s => ⟨fun h => ?_, fun p h => runPendingTest_some h n⟩,
    fun s c rest => ⟨fun p hh ha hr => ?_, fun hh ha => ?_, fun hh ha => ?_⟩⟩
  · rw [runPendingTest, h]
  · have key : ∀ st res t, runTestCommand p.args (taken s rest) = ⟨t, st, res⟩ → exec .test s = answers c st res t :=
      fun st res t h => takeHead_of (a := ⟨t, st, res⟩) hh (hasCode_of hh) (ha ▸ h)
    have hrun := runTestCommand_eq hr (taken s rest)
    have active : s.tables.deviceMode = .active → ¬ (taken s rest).tables.deviceMode = .bypass := fun hm h => by
      rw [show (taken s rest).tables.deviceMode = s.tables.deviceMode from rfl, hm] at h; cases h
    have pending : (taken s rest).test.pending = s.test.pending := rfl
    refine ⟨fun hm => key _ _ _ (hrun.trans (if_pos hm)), fun q hm hq => key _ _ _ (hrun.trans ?_),
      fun hm hq => ⟨fun ho => key _ _ _ (hrun.trans ?_), fun ho hs => key _ _ _ (hrun.trans ?_),
        fun ho hs => ⟨testFinding p s, key _ _ _ (hrun.trans ?_), rfl, testFinding_decided ho⟩⟩⟩
    all_goals rw [if_neg (active hm), pending, hq]
    · rfl
    · exact if_pos ho
    · exact (if_neg ho).trans (if_neg hs)
    · exact (if_neg ho).trans (if_pos hs)
  · exact takeHead_of hh (hasCode_of hh) (by rw [ha])
  · exact takeHead_of hh (hasCode_of hh) (by rw [ha])

end Sys2Proof.Machine
end

section
/-! ### The tracker's verdict on an arrival, case by case (R24 to R30) -/

namespace Sys2Proof.Machine

/-! #### The cases of an arrival -/

/-- A record made behind an open carries the cycle opened (R40). -/
theorem openCycle_stamp (n : CycleNo) (i : Nat) (s : State) : (openCycle n i s).stamp = some n := by
  simp [State.stamp, openCycle_tracker]

theorem arrive_restored {s : State} (hs : s.tracker.state = .nosync) (n : CycleNo) :
    arrive n 0 s = (true, submit (some n) .linkRestored (openCycle n 0 s)) := by
  rw [arrive, hs]
  dsimp only
  rw [arriveUnsynced, if_pos rfl]
  dsimp only
  rw [openCycle_stamp]

theorem arrive_turnedAway {s : State} (hs : s.tracker.state = .nosync) (n : CycleNo) {i : Nat} (hi : i ≠ 0) :
    arrive n i s =
      (false, { s with counters := { s.counters with unsyncCount := saturate s.counters.unsyncCount 1 } }) := by
  rw [arrive, hs]
  exact if_neg hi

theorem arrive_same {s : State} (hs : s.tracker.state = .opened) (i : Nat) :
    arrive s.tracker.lastCycle i s = arriveSame s.tracker.lastCycle i s := by
  rw [arrive, hs]
  exact if_pos rfl

theorem stamp_of_opened {s : State} (h : s.tracker.state = .opened) : s.stamp = some s.tracker.lastCycle :=
  State.stamp_synced (by rw [h]; decide)

theorem stamp_of_closed {s : State} (h : s.tracker.state = .closed) : s.stamp = some s.tracker.lastCycle :=
  State.stamp_synced (by rw [h]; decide)

theorem arrive_repeated {s : State} (hs : s.tracker.state = .opened) {i : Nat} (hi : i ≤ s.tracker.lastIndex) :
    arrive s.tracker.lastCycle i s =
      (false, submit (some s.tracker.lastCycle) (.seq .segDup none (some (s.tracker.lastCycle, i))) s) := by
  rw [arrive_same hs, arriveSame, if_neg (by omega), if_pos hi, discardWith, stamp_of_opened hs]

theorem arrive_next {s : State} (hs : s.tracker.state = .opened) :
    arrive s.tracker.lastCycle (s.tracker.lastIndex + 1) s = (true, setIndex (s.tracker.lastIndex + 1) s) := by
  rw [arrive_same hs, arriveSame, if_pos rfl]

theorem arrive_gap {s : State} (hs : s.tracker.state = .opened) {i : Nat} (hi : s.tracker.lastIndex + 1 < i) :
    arrive s.tracker.lastCycle i s =
      (true, setIndex i (submit (some s.tracker.lastCycle) (.seq .segGap none (some (s.tracker.lastCycle, i))) s)) := by
  rw [arrive_same hs, arriveSame, if_neg (by omega), if_neg (by omega), discardWith, stamp_of_opened hs]

/-- A segment of the open cycle past its last index is processed, and leaves its index, behind a SEGGAP record where it skips some
(R26). -/
theorem arrive_inCycle {s : State} (hs : s.tracker.state = .opened) {i : Nat} (hi : s.tracker.lastIndex < i) :
    ∃ u, arrive s.tracker.lastCycle i s = (true, setIndex i u) ∧
      (u = s ∨ ∃ b, u = submit (some s.tracker.lastCycle) b s) := by
  by_cases h : i = s.tracker.lastIndex + 1
  · subst h; exact ⟨s, arrive_next hs, .inl rfl⟩
  · exact ⟨_, arrive_gap hs (by omega), .inr ⟨_, rfl⟩⟩

theorem arrive_late {s : State} {n : CycleNo} (hs : s.tracker.state = .closed ∨ s.tracker.state = .opened ∧ n ≠ s.tracker.lastCycle)
    (ha : ahead n s.tracker.lastCycle = false) (i : Nat) :
    arrive n i s = (false, submit (some s.tracker.lastCycle) (.seq .late none (some (n, i))) s) := by
  rcases hs with hs | ⟨hs, hn⟩
  · rw [arrive, hs]
    dsimp only
    rw [ha, discardWith, stamp_of_closed hs]
    rfl
  · rw [arrive, hs]
    dsimp only
    rw [if_neg hn, ha, discardWith, stamp_of_opened hs]
    rfl

theorem ne_of_ahead {n m : CycleNo} (h : ahead n m = true) : n ≠ m := by
  rintro rfl
  simp at h

theorem arrive_aheadClosed {s : State} (hs : s.tracker.state = .closed) {n : CycleNo} (ha : ahead n s.tracker.lastCycle = true)
    (i : Nat) : arrive n i s = (true, openAhead n i s) := by
  rw [arrive, hs]
  exact if_pos ha

theorem arrive_aheadOpened {s : State} (hs : s.tracker.state = .opened) {n : CycleNo} (ha : ahead n s.tracker.lastCycle = true)
    (i : Nat) : arrive n i s = (true, openAhead n i (closeCycle (.byArrival n i) s)) := by
  rw [arrive, hs]
  dsimp only
  rw [if_neg (ne_of_ahead ha), if_pos ha]

/-- The STALE triggers of a run of skipped cycles, one after another in rising order (R29). -/
theorem staleRun_eq_foldl (k : Nat) (n : CycleNo) (s : State) :
    staleRun k n s = (List.range k).foldl (fun u j => staleTrigger (n + BitVec.ofNat 16 j) clearMap u) s := by
  induction k generalizing n s with
  | zero => rfl
  | succ k ih =>
    have hstep : ∀ j, n + 1 + BitVec.ofNat 16 j = n + BitVec.ofNat 16 (j + 1) := fun j => by
      rw [BitVec.ofNat_add, BitVec.add_assoc, BitVec.add_comm (1 : CycleNo)]; rfl
    have hzero : n + BitVec.ofNat 16 0 = n := by simp
    rw [staleRun, ih, List.range_succ_eq_map, List.foldl_cons, List.foldl_map, hzero]
    simp only [hstep]

/-- An arrival in CLOSED that opens a cycle: SKIP, the count, the skipped cycles' STALE evaluations, the open, and SEGGAP (R29). -/
theorem openAhead_eq {s : State} (hs : s.tracker.state = .closed) (n : CycleNo) (i : Nat) :
    openAhead n i s =
      let last := s.tracker.lastCycle
      let k := (n - last).toNat - 1
      let s₁ := if k = 0 then s else submit (some last) (.seq .skip (some k) (some (n, i))) s
      let s₂ := { s₁ with tracker := { s₁.tracker with lostTotal := min 65535 (s₁.tracker.lostTotal + k) } }
      let s₃ := (List.range k).foldl
        (fun u j => staleTrigger (last + 1 + BitVec.ofNat 16 j) (Vector.replicate 96 false) u) s₂
      let s₄ := openCycle n i s₃
      if i = 0 then s₄ else submit (some n) (.seq .segGap none (some (n, i))) s₄ := by
  unfold openAhead
  dsimp only
  rw [openCycle_stamp, stamp_of_closed hs, staleRun_eq_foldl]
  simp only [Nat.pos_iff_ne_zero, ite_not, skipCount, saturate, Config.counterMax, clearMap]

/-- An open is the tracker's changes, the Table Store's work, the Group Controller's work and the timer (R31, R111). -/
theorem openCycle_eq (n : CycleNo) (i : Nat) (s : State) :
    openCycle n i s =
      let t := groupsOpen (tableStoreOpen n
        { s with tracker := { s.tracker with state := .opened, lastCycle := n, lastIndex := i, consecutiveLost := 0,
                                             seen := Vector.replicate 96 false },
                 repeats := Vector.replicate 96 false })
      { t with tracker := { t.tracker with timer := some t.params.cycleTimeout } } := by
  rw [openCycle, beginCycle, clearMap, startTimer]

/-- A segment is processed exactly where it synchronises, follows in the open cycle, or is ahead (R25 to R30). -/
theorem arrive_processed (n : CycleNo) (i : Nat) (s : State) :
    (arrive n i s).1 = true ↔
      (s.tracker.state = .nosync ∧ i = 0) ∨
      (s.tracker.state = .opened ∧ ((n = s.tracker.lastCycle ∧ s.tracker.lastIndex < i) ∨ ahead n s.tracker.lastCycle = true)) ∨
      (s.tracker.state = .closed ∧ ahead n s.tracker.lastCycle = true) := by
  cases hs : s.tracker.state with
  | nosync =>
    by_cases hi : i = 0
    · subst hi; simp [arrive_restored hs]
    · simp [arrive_turnedAway hs n hi, hi]
  | opened =>
    by_cases hn : n = s.tracker.lastCycle
    · subst hn
      by_cases hi : i ≤ s.tracker.lastIndex
      · simp [arrive_repeated hs hi, Nat.not_lt.mpr hi]
      · obtain ⟨u, hu, -⟩ := arrive_inCycle hs (Nat.not_le.mp hi)
        simp [hu, Nat.not_le.mp hi]
    · cases ha : ahead n s.tracker.lastCycle
      · simp [arrive_late (.inr ⟨hs, hn⟩) ha, hn]
      · simp [arrive_aheadOpened hs ha]
  | closed =>
    cases ha : ahead n s.tracker.lastCycle
    · simp [arrive_late (.inl hs) ha]
    · simp [arrive_aheadClosed hs ha]

/-- An ahead arrival opens its cycle, in OPEN behind a close that leaves the tracker's counts (R28, R29). -/
theorem arrive_ahead {n : CycleNo} {s : State} (hs : s.tracker.state ≠ .nosync) (ha : ahead n s.tracker.lastCycle = true) (i : Nat) :
    ∃ u : State, u.tracker = { s.tracker with state := u.tracker.state, timer := u.tracker.timer } ∧
      arrive n i s = (true, openAhead n i u) := by
  cases hc : s.tracker.state with
  | nosync => exact absurd hc hs
  | opened => exact ⟨_, by rw [closeCycle_tracker], arrive_aheadOpened hc ha i⟩
  | closed => exact ⟨s, rfl, arrive_aheadClosed hc ha i⟩

/-- A segment that opens a cycle leaves the tracker at the cycle's start, the timer running with the timeout then active, nothing seen
and nothing repeated; the skipped numbers are counted (R28, R29, R31). -/
theorem arrive_opens {n : CycleNo} {i : Nat} {s : State} (h : OpensCycle s n i) :
    (arrive n i s).1 = true ∧
      (arrive n i s).2.tracker =
        { s.tracker with
          state := .opened, lastCycle := n, lastIndex := i, seen := clearMap, consecutiveLost := 0
          timer := some (arrive n i s).2.params.cycleTimeout
          lostTotal := if s.tracker.state = .nosync then s.tracker.lostTotal
            else saturate s.tracker.lostTotal (skipCount n s.tracker.lastCycle) } ∧
      (arrive n i s).2.repeats = clearMap := by
  rcases h with ⟨hs, rfl⟩ | ⟨hs, ha⟩
  · rw [arrive_restored hs]
    refine ⟨rfl, ?_, ?_⟩
    · simp only [submit_tracker, submit_params]
      rw [openCycle_tracker, if_pos hs]
    · rw [submit_repeats, openCycle_repeats]
  · obtain ⟨u, hu, harr⟩ := arrive_ahead hs ha i
    rw [harr]
    refine ⟨rfl, ?_, openAhead_repeats n i u⟩
    dsimp only
    rw [openAhead_tracker, hu, if_neg hs]

end Sys2Proof.Machine
end

section
/-! ### A SEG delivered on port U: its place in the queue, and the frames around it (R23, R41, R189) -/

namespace Sys2Proof.Machine

/-- A SEG frame of up to 48 entries is received good (R188). -/
theorem receive_segment {g : Segment} (h : g.entries.length ≤ 48) :
    receive ⟨(Frame.seg g).bytes, false⟩ .endSymbol = .good 0x01 g.payload := by
  have hlen := g.payload_length
  exact receive_frameBytes (by omega) (by omega) (Segment.payload_form h)

/-- A good SEG payload is read back as its segment (R196). -/
theorem readSegment_payload {g : Segment} (h : g.entries.length ≤ 48) : readSegment g.payload = g := by
  have hn : (BitVec.ofNat 8 g.entries.length : Byte).toNat = g.entries.length := by
    rw [BitVec.toNat_ofNat]; omega
  simp only [Segment.payload, byte1, byte2, List.cons_append, List.nil_append, readSegment, word2_bytes, hn, readEntries_bytes]

/-- The state in which a SEG that has found a place reaches the tracker (R23, R189). -/
def placed (g : Segment) (r : Receiver) (s : State) : State :=
  { s with rxU := r, forward := s.forward ++ [⟨.seg g, false, false, false, true⟩] }

/-- A SEG delivered on port U while a place is free is placed and taken by the tracker (R23, R189). -/
theorem Delivers.segment {s : State} {g : Segment} {line : List Pattern} {last : Pattern} {r : Receiver}
    (hd : Delivers s .u (line ++ [last]) ⟨(Frame.seg g).bytes, false⟩ .endSymbol r) (hl : g.entries.length ≤ 48)
    (hp : placesTaken s.forward < 4) (b : List (List Between)) :
    exec (.frameReceived .u line last b) s = act (segmentArrival g b (placed g r s)) := by
  have hroom : ({ s with rxU := r } : State).forwardRoom = true := decide_eq_true hp
  rw [hd.frameReceivedU, receiveU, receive_segment hl]
  dsimp only
  rw [hroom, if_pos rfl, if_pos rfl, readSegment_payload hl]
  rfl

/-! #### What an arrival leaves of the Forward Queue and of port D -/

/-- A frame placed by a close: complete, and not the SEG that the tracker is taking. -/
def Queued.Aside (q : Queued) : Prop := q.complete = true ∧ q.underway = false

theorem fillStage_byArrival_forward (n m : CycleNo) (i : Nat) (s : State) :
    ∀ q ∈ (fillStage (.byArrival n i) m s).forward, q ∈ s.forward ∨ q.Aside := by
  intro q hq
  unfold fillStage nameEnding at hq
  dsimp only at hq
  split at hq
  · exact .inl hq
  · split at hq
    · exact .inl hq
    · simp only [placeFill, List.mem_append, List.mem_cons] at hq
      rcases hq with hq | rfl | hq
      · exact .inl ((List.takeWhile_sublist _).subset hq)
      · exact .inr ⟨rfl, rfl⟩
      · exact .inl ((List.dropWhile_sublist _).subset hq)

theorem closeCycle_forward (k : CloseKind) (s : State) :
    (closeCycle k s).forward = (fillStage k s.tracker.lastCycle
      (staleTrigger s.tracker.lastCycle s.tracker.seen (closing k s))).forward := by
  rw [closeCycle_eq, runPendingTest_forward]

theorem closeCycle_byArrival_forward (n : CycleNo) (i : Nat) (s : State) :
    ∀ q ∈ (closeCycle (.byArrival n i) s).forward, q ∈ s.forward ∨ q.Aside := by
  intro q hq
  rw [closeCycle_forward] at hq
  have h := fillStage_byArrival_forward _ _ _ _ q hq
  rwa [staleTrigger_forward, closing_forward] at h

theorem closeCycle_byArrival_txD (n : CycleNo) (i : Nat) (s : State) : (closeCycle (.byArrival n i) s).txD = s.txD := by
  rw [closeCycle_eq, runPendingTest_txD, (fillStage_txD _ _ _).2 (by simp), staleTrigger_txD, closing_txD]

@[simp] theorem openAhead_forward (n : CycleNo) (i : Nat) (s : State) : (openAhead n i s).forward = s.forward := by
  unfold openAhead; dsimp only; repeat' split
  all_goals simp

@[simp] theorem openAhead_txD (n : CycleNo) (i : Nat) (s : State) : (openAhead n i s).txD = s.txD := by
  unfold openAhead; dsimp only; repeat' split
  all_goals simp

@[simp] theorem openAhead_upD (n : CycleNo) (i : Nat) (s : State) : (openAhead n i s).upD = s.upD := by
  unfold openAhead; dsimp only; repeat' split
  all_goals simp

@[simp] theorem openAhead_cmdFifo (n : CycleNo) (i : Nat) (s : State) : (openAhead n i s).cmdFifo = s.cmdFifo := by
  unfold openAhead; dsimp only; repeat' split
  all_goals simp

@[simp] theorem openAhead_replies (n : CycleNo) (i : Nat) (s : State) : (openAhead n i s).replies = s.replies := by
  unfold openAhead; dsimp only; repeat' split
  all_goals simp

/-- The commands that wait and the replies held stand (R168, R191). -/
structure CommandsStand (s t : State) : Prop where
  fifo : t.cmdFifo = s.cmdFifo
  replies : t.replies = s.replies

/-- What a processed arrival leaves of port D, the commands, the Forward Queue and the tracker's state. -/
structure ArrivalFrame (s t : State) : Prop extends CommandsStand s t where
  up : t.upD = s.upD
  tx : t.txD = s.txD
  forward : ∀ q ∈ t.forward, q ∈ s.forward ∨ q.Aside
  opened : t.tracker.state = .opened

theorem arrive_frame {n : CycleNo} {i : Nat} {s : State} (h : (arrive n i s).1 = true) : ArrivalFrame s (arrive n i s).2 := by
  rw [arrive_processed] at h
  rcases h with ⟨hs, rfl⟩ | ⟨hs, ⟨rfl, hi⟩ | ha⟩ | ⟨hs, ha⟩
  · rw [arrive_restored hs]
    exact ⟨⟨by simp, by simp⟩, by simp, by simp, fun q hq => .inl (by simpa using hq), by simp [openCycle_tracker]⟩
  · obtain ⟨u, hu, rfl | ⟨b, rfl⟩⟩ := arrive_inCycle hs hi <;> rw [hu]
    · exact ⟨⟨rfl, rfl⟩, rfl, rfl, fun q hq => .inl hq, hs⟩
    · exact ⟨⟨rfl, rfl⟩, rfl, rfl, fun q hq => .inl hq, hs⟩
  · rw [arrive_aheadOpened hs ha]
    refine ⟨⟨by simp, by simp⟩, by simp, by simp [closeCycle_byArrival_txD], fun q hq => ?_, by rw [openAhead_tracker]⟩
    dsimp only at hq
    rw [openAhead_forward] at hq
    exact closeCycle_byArrival_forward n i s q hq
  · rw [arrive_aheadClosed hs ha]
    exact ⟨⟨by simp, by simp⟩, by simp, by simp, fun q hq => .inl (by simpa using hq), by rw [openAhead_tracker]⟩

/-! #### The SEG under way, between the acts of its work (R41, R65, R189) -/

/-- While a segment's samples are worked, the SEG under way shows the entries `l`; it is incomplete while its cycle is open, and every
other frame is complete (R189, R65). -/
structure Shows (g : Segment) (l : List SampleEntry) (s : State) : Prop where
  shown : ∀ q ∈ s.forward, q.underway = true → q.frame = .seg { g with entries := l }
  working : ∀ q ∈ s.forward, q.underway = true → s.tracker.state = .opened → q.complete = false
  others : ∀ q ∈ s.forward, q.underway = false → q.complete = true

/-- The SEG that has found a place, as it stands in the queue until its work begins (R189). -/
def fresh (g : Segment) : Queued := ⟨.seg g, false, false, false, true⟩

theorem placed_forward {g : Segment} {r : Receiver} {s : State} (h : ForwardSettled s) :
    ∀ q ∈ (placed g r s).forward, q.Aside ∨ q = fresh g := fun q hq => by
  rcases List.mem_append.mp hq with hq | hq
  · exact .inl ⟨(h.1 q hq).1, (h.1 q hq).2.1⟩
  · exact .inr (List.mem_singleton.mp hq)

/-- A queue of complete frames and one SEG whose work has not begun shows that SEG's entries. -/
theorem Shows.of_fresh {g : Segment} {s : State} (h : ∀ q ∈ s.forward, q.Aside ∨ q = fresh g) : Shows g g.entries s := by
  refine ⟨fun q hm hu => ?_, fun q hm hu _ => ?_, fun q hm hu => ?_⟩ <;> rcases h q hm with ⟨hc, hu'⟩ | rfl
  · rw [hu] at hu'; cases hu'
  · rfl
  · rw [hu] at hu'; cases hu'
  · rfl
  · exact hc
  · cases hu

/-- What can happen to the Forward Queue between two samples: frames leave it, complete ones that are not under way join it, and a RESET
DEVICE completes and unmarks those that stand there, while no cycle is open any more (R65, R184, R189). -/
structure Passed (s t : State) : Prop where
  stillOpen : t.tracker.state = .opened → s.tracker.state = .opened
  frames : ∀ q ∈ t.forward, q ∈ s.forward ∨ q.Aside ∨
    t.tracker.state ≠ .opened ∧ ∃ q' ∈ s.forward, q = { q' with complete := true, ending := false }

theorem Shows.passed {g : Segment} {l : List SampleEntry} {s t : State} (h : Shows g l s) (hp : Passed s t) : Shows g l t := by
  refine ⟨fun q hq hu => ?_, fun q hq hu ho => ?_, fun q hq hu => ?_⟩
  · rcases hp.frames q hq with hs | ⟨-, hu'⟩ | ⟨-, q', hq', rfl⟩
    · exact h.shown q hs hu
    · rw [hu] at hu'; cases hu'
    · exact h.shown q' hq' hu
  · rcases hp.frames q hq with hs | ⟨-, hu'⟩ | ⟨hn, -⟩
    · exact h.working q hs hu (hp.stillOpen ho)
    · rw [hu] at hu'; cases hu'
    · exact absurd ho hn
  · rcases hp.frames q hq with hs | ⟨hc, -⟩ | ⟨-, q', hq', rfl⟩
    · exact h.others q hs hu
    · exact hc
    · rfl

theorem Passed.of_eq {s t : State} (hf : t.forward = s.forward) (hk : t.tracker = s.tracker) : Passed s t :=
  ⟨fun h => hk ▸ h, fun _ hq => .inl (hf ▸ hq)⟩

theorem Passed.refl (s : State) : Passed s s := .of_eq rfl rfl

theorem arbiterChoice_forward {s s' : State} {f : OnLine} (h : arbiterChoice s = some (f, s')) : s'.forward ⊆ s.forward := by
  unfold arbiterChoice takeOutbound takeForward at h
  repeat' split at h
  all_goals cases h
  · exact List.Subset.refl _
  · exact List.Subset.refl _
  · rename_i hf; rw [hf]; exact List.subset_cons_self ..

theorem arbitrate_forward_subset (k : Nat) (s : State) : (arbitrate k s).forward ⊆ s.forward := by
  induction k generalizing s with
  | zero => exact List.Subset.refl _
  | succ k ih =>
    rw [arbitrate]
    split
    · exact List.Subset.refl _
    · split
      · exact List.Subset.refl _
      · rename_i f s' hc
        have hs := arbiterChoice_forward hc
        split
        · exact hs
        · exact fun q hq => hs (ih { s' with slotOwed := s'.slotOwed || f.ending } hq)

/-- The transmitters take frames from the Forward Queue and add none (R192). -/
theorem settle_forward_subset (s : State) : (settle s).forward ⊆ s.forward := by
  rw [settle, returnSend_forward]
  exact arbitrate_forward_subset _ s

theorem passed_settle (s : State) : Passed s (settle s) :=
  ⟨fun h => by rwa [settle_tracker] at h, fun q hq => .inl (settle_forward_subset s hq)⟩

theorem passed_resetDevice (s : State) : Passed s (resetDeviceOp s) :=
  ⟨nofun, fun q hq => by
    obtain ⟨q', hq', rfl⟩ := List.mem_map.mp hq
    exact .inr (.inr ⟨nofun, q', hq', rfl⟩)⟩

theorem CommandFrame.passed {s t : State} (h : CommandFrame s t) : Passed s t := .of_eq h.forward h.tracker

theorem resetRuntimeOp_forward (s : State) : (resetRuntimeOp s).forward = s.forward := by simp [resetRuntimeOp]

theorem passed_resetRuntime (s : State) : Passed s (resetRuntimeOp s) :=
  ⟨fun h => by rwa [resetRuntimeOp_tracker] at h, fun q hq => .inl (by rwa [resetRuntimeOp_forward] at hq)⟩

theorem passed_runResetRuntime (args : List Byte) (s : State) : Passed s (runResetRuntime args s).state := by
  unfold runResetRuntime
  split
  · exact passed_resetRuntime s
  · exact .refl s

theorem passed_runResetLog (args : List Byte) (s : State) : Passed s (runResetLog args s).state := by
  unfold runResetLog
  split
  · exact .of_eq rfl rfl
  · exact .refl s

theorem passed_runResetDevice (args : List Byte) (s : State) : Passed s (runResetDevice args s).state := by
  unfold runResetDevice
  split
  · exact passed_resetDevice s
  · exact .refl s

theorem passed_runReset (args : List Byte) (s : State) : Passed s (runReset args s).state := by
  unfold runReset
  split
  · exact passed_runResetRuntime args s
  · exact passed_runResetLog args s
  · exact passed_runResetDevice args s
  · exact .refl s

/-- A command taken between two samples (R171). -/
theorem passed_executorTakes (s : State) : Passed s (executorTakes s) := by
  unfold executorTakes takeHead
  cases hc : s.cmdFifo with
  | nil => exact .refl s
  | cons c rest =>
    dsimp only
    split
    · have hrun : Passed s (((catalogue c.code).getD runUnknown) c.args { s with cmdFifo := rest }).state := by
        have htaken : ∀ t, Passed { s with cmdFifo := rest } t → Passed s t := fun t h => ⟨h.stillOpen, h.frames⟩
        refine htaken _ ?_
        cases hcat : catalogue c.code with
        | none => exact .refl _
        | some run =>
          have hm := catalogue_mem hcat
          by_cases h60 : c.code = 0x60
          · have hx : run = runReset := by
              rw [h60] at hcat
              exact (Option.some.inj hcat).symm
            rw [hx]
            exact passed_runReset ..
          · exact (commandTable_frame hm h60 _ _).passed
      unfold carryOut placeReply
      dsimp only
      split
      · exact hrun
      · exact ⟨hrun.stillOpen, hrun.frames⟩
    · exact .refl s

end Sys2Proof.Machine
end

section
/-! ### A segment's work with the events between its samples, as the rows that they are (R41, R45, R65, R171) -/

namespace Sys2Proof.Machine

theorem portDDownOp_forward (s : State) : (portDDownOp s).forward = s.forward := by
  unfold portDDownOp; split <;> rfl

theorem transmitEnd_forward (p : Port) (s : State) : (transmitEnd p s).forward = s.forward := by
  unfold transmitEnd; repeat' split
  all_goals rfl

theorem enterReturn_forward (l : List Byte) (s : State) : (enterReturn l s).forward = s.forward := by
  unfold enterReturn; split <;> rfl

theorem offerCommand_forward (c : Command) (s : State) : (offerCommand c s).forward = s.forward := by
  unfold offerCommand; split <;> rfl

theorem offerBroadcast_forward (c : Command) (s : State) : (offerBroadcast c s).forward = s.forward := by
  unfold offerBroadcast
  split
  · exact offerCommand_forward c s
  · rfl

theorem sortCommand_forward (payload whole : List Byte) (s : State) : (sortCommand payload whole s).forward = s.forward := by
  unfold sortCommand
  split
  · split
    · rw [offerBroadcast_forward, enterReturn_forward]
    · split
      · exact offerCommand_forward _ s
      · exact enterReturn_forward whole s
  · rfl

/-- Nothing that port D receives touches the Forward Queue. -/
theorem lineEventD_forward (e : RxEvent) (s : State) : (lineEventD e s).forward = s.forward := by
  unfold lineEventD
  split
  · rfl
  · exact portDDownOp_forward s
  · unfold receiveD
    split
    · rfl
    · rfl
    · split
      · exact sortCommand_forward _ _ s
      · exact enterReturn_forward _ s
  · rfl

theorem setRx_forward (s : State) (p : Port) (r : Receiver) : (s.setRx p r).forward = s.forward := by cases p <;> rfl

theorem setRx_tracker (s : State) (p : Port) (r : Receiver) : (s.setRx p r).tracker = s.tracker := by cases p <;> rfl

theorem Passed.of_setRx {s t : State} {p : Port} {r : Receiver} (h : Passed (s.setRx p r) t) : Passed s t :=
  ⟨fun ho => setRx_tracker s p r ▸ h.stillOpen ho, fun q hq => setRx_forward s p r ▸ h.frames q hq⟩

theorem passed_takeLine (p : Port) {on : RxEvent → State → State} {l : List Symbol} {s : State}
    (hon : ∀ e, ((s.rx p).run (s.up p) l).2 = some e → ∀ u, u = s.setRx p ((s.rx p).run (s.up p) l).1 → Passed u (on e.1 u)) :
    Passed s (takeLine p on l s) := by
  rw [takeLine_eq]
  refine Passed.of_setRx (p := p) (r := ((s.rx p).run (s.up p) l).1) ?_
  split
  · exact .refl _
  · rename_i e he
    exact hon e he _ rfl

theorem passed_takeLineD (line : List Pattern) (s : State) : Passed s (takeLineD line s) :=
  passed_takeLine .d fun e _ u _ => .of_eq (lineEventD_forward e.1 u) (lineEventD_keepsTrack e.1 u).tracker

theorem passed_transmitEndD (down : Option DownCause) (s : State) : Passed s (transmitEndD down s) := by
  have he : Passed s (transmitEnd .d s) := .of_eq (transmitEnd_forward .d s) (transmitEnd_keepsTrack .d s).tracker
  have htrans : ∀ t, Passed (transmitEnd .d s) t → Passed s t := fun t h =>
    ⟨fun ho => he.stillOpen (h.stillOpen ho), fun q hq => transmitEnd_forward .d s ▸ h.frames q hq⟩
  rcases down with _ | c
  · exact he
  · cases c with
    | lossOfSignal =>
      exact htrans _ (.of_eq (portDDownOp_forward _) (portDDownOp_keepsTrack _).tracker)
    | violations line => exact htrans _ (passed_takeLineD line _)

/-- What port U receives beside a segment's work brings the tracker nothing, and at most one whole frame to the queue (R189; log 6). -/
theorem passed_takeBeside (line : List Pattern) (s : State) : Passed s (takeBeside line s) := by
  unfold takeBeside
  split
  · exact .refl s
  · rename_i hr
    refine passed_takeLine .u fun e he u hu => ?_
    have hreach : reachesTracker e.1 s = false := by
      change (s.rxU.run s.upU (line.map symbolOf)).2 = some e at he
      rw [he] at hr
      simpa using hr
    unfold lineEventU
    split
    · exact .of_eq rfl rfl
    · rename_i hdown
      rw [hdown] at hreach
      cases hreach
    · unfold receiveU
      split
      · exact .of_eq rfl rfl
      · exact .of_eq rfl rfl
      · split
        · split
          · exact .refl u
          · refine ⟨fun h => h, fun q hq => ?_⟩
            rcases List.mem_append.mp hq with hq | hq
            · exact .inl hq
            · rw [List.mem_singleton.mp hq]
              exact .inr (.inl ⟨rfl, rfl⟩)
        · exact .of_eq rfl rfl
    · exact .of_eq rfl rfl

theorem passed_completeCopy (s : State) : Passed s (completeCopy s) := by
  unfold completeCopy
  split <;> exact .of_eq rfl rfl

theorem Shows.betweenAct {g : Segment} {l : List SampleEntry} {s : State} (h : Shows g l s) (b : Between) :
    Shows g l (betweenAct b s) := by
  unfold Machine.betweenAct
  refine Shows.passed ?_ (passed_settle _)
  cases b with
  | executorTakes => exact h.passed (passed_executorTakes s)
  | tripNFall => exact h.passed (.of_eq (tripLineFall_forward s) (tripLineFall_tracker s))
  | tripNRise => exact h.passed (.of_eq rfl rfl)
  | bankCopyComplete => exact h.passed (passed_completeCopy s)
  | transmitEndU => exact h.passed (.of_eq (transmitEnd_forward .u s) (transmitEnd_keepsTrack .u s).tracker)
  | transmitEndD down => exact h.passed (passed_transmitEndD down s)
  | portDLine line => exact h.passed (passed_takeLineD line s)
  | portDSignalLoss => exact h.passed (.of_eq (portDDownOp_forward s) (portDDownOp_keepsTrack s).tracker)
  | portULine line => exact h.passed (passed_takeBeside line s)

/-- Some events between two samples are their rows, one after another (R171; log 6). -/
theorem betweenActs_eq_happen (l : List Between) (s : State) : betweenActs l s = happen l s := by
  unfold betweenActs happen
  congr 1
  funext u b
  exact betweenAct_row b u

theorem Shows.happen {g : Segment} {l : List SampleEntry} {s : State} (h : Shows g l s) (bs : List Between) :
    Shows g l (happen bs s) := by
  rw [← betweenActs_eq_happen]
  induction bs generalizing s with
  | nil => exact h
  | cons b bs ih => exact ih (h.betweenAct b)

/-! #### The queued SEG is shown as its entries stand (R65, R189) -/

theorem sampleWork_forward (x : SampleEntry) (s : State) : (sampleWork x s).1.forward = s.forward := by
  by_cases ho : s.tracker.state = .opened
  · exact (sampleWork_spec x s ho).1.forward
  · rw [sampleWork, if_pos ho]

theorem sampleWork_state (x : SampleEntry) (s : State) : (sampleWork x s).1.tracker.state = s.tracker.state := by
  by_cases ho : s.tracker.state = .opened
  · rw [(sampleWork_spec x s ho).1.tracker]
  · rw [sampleWork, if_pos ho]

/-- A SEG that already shows its entries is complete once its work is over, and otherwise stands (R189). -/
theorem Shows.finish {g : Segment} {l : List SampleEntry} {s : State} (h : Shows g l s) (finished : Bool) :
    (if finished then completeFrames s else s) = reshown g l finished s := by
  have key : s.forward.map (fun q => { q with complete := q.complete || finished }) = (reshown g l finished s).forward :=
    List.map_congr_left fun q hq => by
      cases hu : q.underway
      · have hc := h.others q hq hu
        obtain ⟨f, r, c, e, u⟩ := q
        dsimp only at hu hc ⊢
        subst hu hc
        rfl
      · have hf := h.shown q hq hu
        obtain ⟨f, r, c, e, u⟩ := q
        dsimp only at hu hf ⊢
        subst hu hf
        rfl
  cases finished
  · have hid : s.forward.map (fun q => { q with complete := q.complete || false }) = s.forward :=
      (List.map_congr_left fun q _ => by rw [Bool.or_false]; rfl).trans (List.map_id _)
    rw [hid] at key
    change s = { s with forward := (reshown g l false s).forward }
    rw [← key]
  · simp only [Bool.or_true] at key
    change completeFrames s = { s with forward := (reshown g l true s).forward }
    rw [← key]
    rfl

/-- The outgoing entries are written into the SEG under way while it is incomplete, and where it is complete already it shows them
(R65, R189). -/
theorem Shows.rewrite {g : Segment} {l l' : List SampleEntry} {s : State} (h : Shows g l s)
    (hl : s.tracker.state ≠ .opened → l' = l) : rewriteEntries g l' s = reshown g l' false s := by
  have key : (rewriteEntries g l' s).forward = (reshown g l' false s).forward :=
    List.map_congr_left fun q hq => by
      cases hu : q.underway
      · simp [h.others q hq hu]
      · cases hc : q.complete
        · simp [← hc]
        · have hn : s.tracker.state ≠ .opened := fun ho => by
            have := h.working q hq hu ho
            rw [hc] at this; cases this
          have hfr := h.shown q hq hu
          rw [hl hn]
          obtain ⟨f, r, c, e, u⟩ := q
          dsimp only at hu hc hfr
          subst hu hc hfr
          rfl
  change { s with forward := (rewriteEntries g l' s).forward } = _
  rw [key]
  rfl

theorem mem_reshown {g : Segment} {l : List SampleEntry} {finished : Bool} {s : State} {q : Queued}
    (h : q ∈ (reshown g l finished s).forward) :
    ∃ q' ∈ s.forward, q'.underway = false ∧ q = q' ∨ q'.underway = true ∧
      q = { q' with frame := .seg { g with entries := l }, complete := q'.complete || finished } := by
  obtain ⟨q', hq', rfl⟩ := List.mem_map.mp h
  refine ⟨q', hq', ?_⟩
  cases hu : q'.underway
  · exact .inl ⟨rfl, by simp⟩
  · exact .inr ⟨rfl, by simp⟩

theorem Shows.reshown {g : Segment} {l : List SampleEntry} {s : State} (h : Shows g l s) (l' : List SampleEntry) :
    Shows g l' (reshown g l' false s) := by
  refine ⟨fun q hq hu => ?_, fun q hq hu ho => ?_, fun q hq hu => ?_⟩ <;>
    obtain ⟨q', hq', ⟨hu', rfl⟩ | ⟨hu', rfl⟩⟩ := mem_reshown hq
  · rw [hu'] at hu; cases hu
  · rfl
  · rw [hu'] at hu; cases hu
  · exact (Bool.or_false _).trans (h.working q' hq' hu' ho)
  · exact h.others _ hq' hu'
  · exact absurd (hu'.symm.trans hu) (by decide)

theorem reshown_reshown (g : Segment) (l l' : List SampleEntry) (a b : Bool) (s : State) :
    reshown g l' b (reshown g l a s) = reshown g l' (a || b) s := by
  have key : (reshown g l' b (reshown g l a s)).forward = (reshown g l' (a || b) s).forward := by
    refine (List.map_map ..).trans (List.map_congr_left fun q _ => ?_)
    cases hu : q.underway <;> simp [hu, Bool.or_assoc]
  change { s with forward := (reshown g l' b (reshown g l a s)).forward } = _
  rw [key]
  rfl

/-- The end of a sample's work: the entries as they stand, the SEG complete where it was the last sample (R65, R189). -/
theorem Shows.workDone {g : Segment} {l l' : List SampleEntry} {s : State} (h : Shows g l s)
    (hl : s.tracker.state ≠ .opened → l' = l) (left : List SampleEntry) :
    workDone left (rewriteEntries g l' s) = settle (Machine.reshown g l' left.isEmpty s) := by
  rw [h.rewrite hl, Machine.workDone, (h.reshown l').finish, reshown_reshown, Bool.false_or]

theorem Shows.congr {g : Segment} {l : List SampleEntry} {s t : State} (h : Shows g l s) (hf : t.forward = s.forward)
    (hk : t.tracker.state = s.tracker.state) : Shows g l t :=
  h.passed ⟨fun ho => hk ▸ ho, fun _ hq => .inl (hf ▸ hq)⟩

/-- The samples' work is that of the statements: each event between two samples its row, and the queued SEG shown as it stands (R41,
R45, R50, R65, R189). -/
theorem workSamples_eq_segmentWork (g : Segment) (out left : List SampleEntry) (between : List (List Between)) (s : State)
    (h : left ≠ [] → Shows g (out ++ left) s) : workSamples g out left between s = segmentWork g out left between s := by
  induction left generalizing out between s with
  | nil =>
    have hacts : (fun (u : State) l => betweenActs l u) = fun u l => l.foldl (fun u b => ran (betweenRow b u) u) u := by
      funext u l; exact betweenActs_eq_happen l u
    rw [workSamples, segmentWork, happen, List.foldl_flatten, hacts]
  | cons x rest ih =>
    have hs := (h (by simp)).happen (between.headD [])
    rw [workSamples, segmentWork, betweenActs_eq_happen]
    generalize happen (between.headD []) s = s₁ at hs ⊢
    have hp : Shows g (out ++ x :: rest) (sampleWork x s₁).1 := hs.congr (sampleWork_forward x s₁) (sampleWork_state x s₁)
    have hl : (sampleWork x s₁).1.tracker.state ≠ .opened → out ++ (sampleWork x s₁).2.toList ++ rest = out ++ x :: rest := by
      intro hn
      rw [sampleWork_state] at hn
      rw [sampleWork, if_pos hn]
      simp
    rw [hp.workDone hl]
    refine ih _ _ _ fun hne => ?_
    have hempty : rest.isEmpty = false := by simpa using hne
    rw [hempty]
    exact (hp.reshown _).passed (passed_settle _)

/-- A SEG that is placed and processed, on any line and with any events between its samples (R23, R41, R65). -/
theorem segmentArrival_processed {g : Segment} {r : Receiver} {s : State} (hf : ForwardSettled s) (between : List (List Between))
    (ha : (arrive g.cycle g.index (placed g r s)).1 = true) :
    let a := (arrive g.cycle g.index (placed g r s)).2
    let v := segmentWork g [] g.entries between (settle (reshown g g.entries g.entries.isEmpty a))
    segmentArrival g between (placed g r s) =
      segmentOver (if g.segByte.msb = true ∧ v.tracker.state = .opened then closeCycle .complete v else v) := by
  have hshow : Shows g g.entries (arrive g.cycle g.index (placed g r s)).2 := .of_fresh fun q hq => by
    rcases (arrive_frame ha).forward q hq with h | h
    · exact placed_forward hf q h
    · exact .inl h
  have hfirst : workDone g.entries (arrive g.cycle g.index (placed g r s)).2 =
      settle (reshown g g.entries g.entries.isEmpty (arrive g.cycle g.index (placed g r s)).2) := by
    rw [workDone, hshow.finish]
  rw [segmentArrival, if_pos ha, hfirst, workSamples_eq_segmentWork g [] g.entries between _ fun hne => ?_]
  · simp only [closeOnLast, Bool.and_eq_true, beq_iff_eq]
    rfl
  · rw [show g.entries.isEmpty = false by simpa using hne]
    exact (hshow.reshown g.entries).passed (passed_settle _)

end Sys2Proof.Machine
end

section
/-! ### Work on a busy line: the transmitters' choices between acts leave no trace in it (R190, R192; log 5) -/

namespace Sys2Proof.Machine

/-- The queues that no judging of a sample reads: the Forward Queue, the frame on port U's line and the Return Queue. -/
def State.requeue (s : State) (fw : List Queued) (tx : Option (List Byte)) (rt : List (List Byte)) : State :=
  { s with forward := fw, txU := tx, ret := rt }

section
variable (fw : List Queued) (tx : Option (List Byte)) (rt : List (List Byte))

theorem tripRequest_requeue (q : TripRequest) (s : State) :
    tripRequest q (s.requeue fw tx rt) = (tripRequest q s).requeue fw tx rt := by
  have hg : (s.requeue fw tx rt).group q.group = s.group q.group := rfl
  have hm : (s.requeue fw tx rt).tables = s.tables := rfl
  cases hd : s.tables.deviceMode
  · simp [tripRequest, hm, hd]
  · cases hs : (s.group q.group).state <;> (simp only [tripRequest, hm, hd, hg, hs]; rfl)

theorem qualifyFault_requeue (c : Chan) (n : CycleNo) (k : ClassSet) (v : Option Sample) (r : ChannelRecord) (s : State) :
    qualifyFault c n k v r (s.requeue fw tx rt) = (qualifyFault c n k v r s).requeue fw tx rt := by
  have he : (s.requeue fw tx rt).entry c = s.entry c := rfl
  unfold qualifyFault
  dsimp only
  rw [he]
  cases (s.entry c).group with
  | none => rfl
  | some g =>
    dsimp only
    split
    · exact tripRequest_requeue fw tx rt ⟨g, .channel, some c, some n⟩
        (submit (some n) (.fault c k v (some g)) (s.setChannel c (r.qualified k n)))
    · rfl

theorem evaluate_requeue (c : Chan) (n : CycleNo) (k : ClassSet) (v : Option Sample) (s : State) :
    evaluate c n k v (s.requeue fw tx rt) = (evaluate c n k v s).requeue fw tx rt := by
  have he : (s.requeue fw tx rt).entry c = s.entry c := rfl
  have hc : (s.requeue fw tx rt).channel c = s.channel c := rfl
  unfold evaluate
  dsimp only
  rw [he, hc, qualifyFault_requeue]
  repeat' split
  all_goals rfl

theorem staleOver_requeue (n : CycleNo) (seen : Vector Bool 96) (l : List Chan) (s : State) :
    staleOver n seen l (s.requeue fw tx rt) = (staleOver n seen l s).requeue fw tx rt := by
  induction l generalizing s with
  | nil => rfl
  | cons c l ih =>
    rw [staleOver, staleOver, ← ih, takesStale_congr (t := s.requeue fw tx rt) (s := s) rfl, evaluate_requeue]
    congr 1
    split <;> rfl

theorem noteValue_requeue (c : Chan) (o : CheckOutcome) (s : State) :
    noteValue c o (s.requeue fw tx rt) = (noteValue c o s).requeue fw tx rt := by
  have he : (s.requeue fw tx rt).entry c = s.entry c := rfl
  have hc : (s.requeue fw tx rt).channel c = s.channel c := rfl
  unfold noteValue
  split
  · rfl
  · dsimp only
    rw [he, hc]
    split <;> rfl

theorem updateLastGood_requeue (c : Chan) (o : CheckOutcome) (s : State) :
    updateLastGood c o (s.requeue fw tx rt) = (updateLastGood c o s).requeue fw tx rt := by
  have he : (s.requeue fw tx rt).entry c = s.entry c := rfl
  have hc : (s.requeue fw tx rt).channel c = s.channel c := rfl
  have hg : guardUnaltered (s.requeue fw tx rt) = guardUnaltered s := rfl
  unfold updateLastGood
  dsimp only
  rw [he, hc, hg]
  repeat' split
  all_goals rfl

theorem noteDuplicate_requeue (c : Chan) (s : State) :
    noteDuplicate c (s.requeue fw tx rt) = (noteDuplicate c s).requeue fw tx rt := by
  have hr : (s.requeue fw tx rt).repeats = s.repeats := rfl
  unfold noteDuplicate
  rw [hr]
  split <;> rfl

theorem judge_requeue (c : Chan) (x : SampleEntry) (s : State) :
    judge c x (s.requeue fw tx rt) = ((judge c x s).1.requeue fw tx rt, (judge c x s).2) := by
  have he : (s.requeue fw tx rt).entry c = s.entry c := rfl
  have hc : (s.requeue fw tx rt).channel c = s.channel c := rfl
  have hk : (s.requeue fw tx rt).tracker = s.tracker := rfl
  have hch : ∀ u : State, choice (u.requeue fw tx rt) = choice u := fun _ => rfl
  unfold judge
  dsimp only
  rw [he, hc, hk, noteValue_requeue, evaluate_requeue, updateLastGood_requeue, hch]

/-- The work on a sample reads and writes none of these queues (R45 to R64). -/
theorem sampleWork_requeue (x : SampleEntry) (s : State) :
    sampleWork x (s.requeue fw tx rt) = ((sampleWork x s).1.requeue fw tx rt, (sampleWork x s).2) := by
  have hk : (s.requeue fw tx rt).tracker = s.tracker := rfl
  have hch : ∀ c, (s.requeue fw tx rt).checked c = s.checked c := fun _ => rfl
  have hm : ∀ c, (s.requeue fw tx rt).markSeen c = (s.markSeen c).requeue fw tx rt := fun _ => rfl
  unfold sampleWork
  rw [hk]
  split
  · rfl
  · split
    · rfl
    · rename_i c _
      dsimp only
      rw [hch c, hm c, noteDuplicate_requeue, judge_requeue]
      repeat' split
      all_goals rfl

theorem fillStage_requeue (k : CloseKind) (n : CycleNo) (s : State) :
    fillStage k n (s.requeue s.forward tx rt) = (fillStage k n s).requeue (fillStage k n s).forward tx rt := by
  have he : fillEntries (s.requeue s.forward tx rt) n = fillEntries s n := rfl
  have hd : (s.requeue s.forward tx rt).tables = s.tables := rfl
  have hf : (s.requeue s.forward tx rt).forward = s.forward := rfl
  unfold fillStage nameEnding
  dsimp only
  rw [he, hd, hf]
  cases k <;> (repeat' split) <;> rfl

theorem runPendingTest_requeue (n : CycleNo) (s : State) :
    runPendingTest n (s.requeue fw tx rt) = (runPendingTest n s).requeue fw tx rt := by
  have ht : (s.requeue fw tx rt).test = s.test := rfl
  have hf : ∀ p, testFinding p (s.requeue fw tx rt) = testFinding p s := fun _ => rfl
  unfold runPendingTest
  rw [ht]
  split
  · rfl
  · rw [runTest, hf]; rfl

/-- A close reads and writes nothing of port U's transmit side (R33). -/
theorem closeCycle_requeue (k : CloseKind) (s : State) :
    closeCycle k (s.requeue s.forward tx rt) = (closeCycle k s).requeue (closeCycle k s).forward tx rt := by
  have hk : (s.requeue s.forward tx rt).tracker = s.tracker := rfl
  have hc : closing k (s.requeue s.forward tx rt) = (closing k s).requeue s.forward tx rt := by cases k <;> rfl
  rw [closeCycle_eq, closeCycle_eq, hk, hc, staleTrigger, staleOver_requeue, ← staleTrigger, ← closing_forward k s,
    ← staleTrigger_forward s.tracker.lastCycle s.tracker.seen, fillStage_requeue, runPendingTest_requeue, runPendingTest_forward]

end

/-! #### Settling a busy line (R190, R192) -/

/-- The transmit side of port U stands as in another state. -/
structure SendsAs (s t : State) : Prop where
  up : t.upU = s.upU
  tx : t.txU = s.txU
  ret : t.ret = s.ret

theorem SendsAs.trans {s t u : State} (h : SendsAs s t) (h' : SendsAs t u) : SendsAs s u :=
  ⟨h'.up.trans h.up, h'.tx.trans h.tx, h'.ret.trans h.ret⟩

theorem returnSend_congr {s t : State} (h : SendsAs s t) :
    (returnSend t).txU = (returnSend s).txU ∧ (returnSend t).ret = (returnSend s).ret := by
  obtain ⟨hu, ht, hr⟩ := h
  unfold returnSend
  rw [hu, ht, hr]
  split
  · split <;> simp [ht, hr]
  · simp

/-- On a busy line settling moves no frame but port U's (R190, R192). -/
theorem settle_eq_requeue {s t : State} (hb : LineBusy t) (h : SendsAs s t) :
    settle t = t.requeue t.forward (returnSend s).txU (returnSend s).ret := by
  rw [settle_busy hb, ← (returnSend_congr h).1, ← (returnSend_congr h).2, returnSend_frame]
  rfl

theorem returnSend_returnSend (s : State) : returnSend (returnSend s) = returnSend s := by
  cases hu : s.upU
  · simp [returnSend, hu]
  · cases ht : s.txU <;> cases hr : s.ret <;> simp [returnSend, hu, ht, hr]

theorem settle_settle {s : State} (hb : LineBusy s) : settle (settle s) = settle s := by
  rw [settle_busy hb.settle, settle_busy hb, returnSend_returnSend]

/-- Work done behind a settled busy line leaves, once settled, what the same work leaves without (R192; log 5). -/
theorem settle_requeue {s t : State} (hb : LineBusy t) (h : SendsAs s t) :
    settle (t.requeue t.forward (returnSend s).txU (returnSend s).ret) = settle t := by
  rw [← settle_eq_requeue hb h, settle_settle hb]

theorem sampleWork_sends (x : SampleEntry) (s : State) : SendsAs s (sampleWork x s).1 := by
  have h : sampleWork x s = sampleWork x (s.requeue s.forward s.txU s.ret) := rfl
  rw [sampleWork_requeue] at h
  refine ⟨?_, by rw [h]; rfl, by rw [h]; rfl⟩
  unfold sampleWork
  repeat' split
  · rfl
  · rfl
  · rfl
  · simp
  · rw [judge_frame]; rfl

theorem sampleWork_busy {s : State} (hb : LineBusy s) (x : SampleEntry) : LineBusy (sampleWork x s).1 := by
  by_cases ho : s.tracker.state = .opened
  · exact hb.of_eq (sampleWork_spec x s ho).1.up (sampleWork_spec x s ho).1.tx
  · rw [sampleWork, if_pos ho]; exact hb

theorem reshown_requeue (g : Segment) (l l' : List SampleEntry) (a b : Bool) {s u : State} (h : u.forward = s.forward)
    (tx : Option (List Byte)) (rt : List (List Byte)) :
    reshown g l' b (u.requeue (reshown g l a s).forward tx rt) =
      (reshown g l' (a || b) u).requeue (reshown g l' (a || b) u).forward tx rt := by
  have hf := congrArg State.forward (reshown_reshown g l l' a b u)
  have hu : (reshown g l a s).forward = (reshown g l a u).forward := by
    unfold reshown; rw [h]
  rw [hu]
  change (u.requeue (reshown g l' b (reshown g l a u)).forward tx rt) = _
  rw [hf]
  rfl

theorem reshown_sends (g : Segment) (l : List SampleEntry) (finished : Bool) (s : State) : SendsAs s (reshown g l finished s) :=
  ⟨rfl, rfl, rfl⟩

theorem segmentOver_sends (s : State) : SendsAs s (segmentOver s) := ⟨rfl, rfl, rfl⟩

theorem showing_eq_reshown (g : Segment) (l : List SampleEntry) (s : State) : showing g l true s = reshown g l true s := by
  have h : (showing g l true s).forward = (reshown g l true s).forward :=
    List.map_congr_left fun q _ => by cases q.underway <;> simp
  change { s with forward := (showing g l true s).forward } = _
  rw [h]
  rfl

/-- The work on some samples behind the outgoing entries so far. -/
def samplesFrom (p : State × List SampleEntry) (l : List SampleEntry) : State × List SampleEntry :=
  l.foldl (fun p x => ((sampleWork x p.1).1, p.2 ++ (sampleWork x p.1).2.toList)) p

theorem samplesWork_eq (l : List SampleEntry) (s : State) : samplesWork l s = samplesFrom (s, []) l := rfl

/-- On a busy line a sample with no event before it takes the segment's work one sample further (R41, R45, R50). -/
theorem segmentWork_step_busy (g : Segment) (out : List SampleEntry) (x : SampleEntry) (rest : List SampleEntry)
    (bs : List (List Between)) {s : State} (hb : LineBusy s) :
    segmentWork g out (x :: rest) ([] :: bs) (settle (reshown g (out ++ x :: rest) false s)) =
      segmentWork g (out ++ (sampleWork x s).2.toList) rest bs
        (settle (reshown g (out ++ (sampleWork x s).2.toList ++ rest) rest.isEmpty (sampleWork x s).1)) := by
  have hset : settle (reshown g (out ++ x :: rest) false s) =
      s.requeue (reshown g (out ++ x :: rest) false s).forward (returnSend s).txU (returnSend s).ret :=
    settle_eq_requeue (s := s) (hb.of_eq rfl rfl) ⟨rfl, rfl, rfl⟩
  have hv : LineBusy (reshown g (out ++ (sampleWork x s).2.toList ++ rest) rest.isEmpty (sampleWork x s).1) :=
    (sampleWork_busy hb x).of_eq rfl rfl
  rw [segmentWork]
  change segmentWork g (out ++ (sampleWork x (settle _)).2.toList) rest bs (settle (reshown g
    (out ++ (sampleWork x (settle _)).2.toList ++ rest) rest.isEmpty (sampleWork x (settle _)).1)) = _
  rw [hset, sampleWork_requeue]
  dsimp only
  rw [reshown_requeue g _ _ false rest.isEmpty (sampleWork_forward x s), Bool.false_or,
    settle_requeue hv ((sampleWork_sends x s).trans (reshown_sends ..))]

/-- On a busy line, with no event before the samples in front, a segment's work begins with theirs, one after another (R41, R50). -/
theorem segmentWork_front_busy (g : Segment) (out front back : List SampleEntry) (bs : List (List Between)) {s : State}
    (hb : LineBusy s) :
    segmentWork g out (front ++ back) (List.replicate front.length [] ++ bs)
        (settle (reshown g (out ++ (front ++ back)) (front ++ back).isEmpty s)) =
      segmentWork g (samplesFrom (s, out) front).2 back bs
        (settle (reshown g ((samplesFrom (s, out) front).2 ++ back) back.isEmpty (samplesFrom (s, out) front).1)) := by
  induction front generalizing out s with
  | nil => rfl
  | cons x rest ih =>
    have hrest := ih (out ++ (sampleWork x s).2.toList) (sampleWork_busy hb x)
    rw [← List.append_assoc] at hrest
    exact (segmentWork_step_busy g out x (rest ++ back) _ hb).trans (by rw [← List.append_assoc]; exact hrest)

/-- Lists of events that hold none are as no list at all. -/
theorem segmentWork_no_events (g : Segment) (out left : List SampleEntry) (k : Nat) (s : State) :
    segmentWork g out left (List.replicate k []) s = segmentWork g out left [] s := by
  induction left generalizing out k s with
  | nil => rw [segmentWork, segmentWork]; simp
  | cons x rest ih => cases k with
    | zero => rfl
    | succ k => rw [segmentWork, segmentWork]; exact ih _ k _

/-- On a busy line, with no event between the samples, a segment's work is that on its samples one after another, and the queued SEG
shows what came out (R41, R45, R50). -/
theorem segmentWork_busy (g : Segment) (l : List SampleEntry) {s : State} (hb : LineBusy s) :
    segmentWork g [] l [] (settle (reshown g l l.isEmpty s)) =
      settle (showing g (samplesWork l s).2 true (samplesWork l s).1) := by
  have h := segmentWork_front_busy g [] l [] [] hb
  rw [List.append_nil, List.append_nil, List.nil_append, segmentWork_no_events] at h
  rw [h, showing_eq_reshown, List.append_nil]
  rfl

theorem segmentOver_busy {s : State} (hb : LineBusy s) : LineBusy (segmentOver s) :=
  ⟨hb.up, by rw [segmentOver]; simpa using hb.sending⟩

theorem closeCycle_busy {s : State} (hb : LineBusy s) (k : CloseKind) : LineBusy (closeCycle k s) := by
  refine ⟨by rw [closeCycle_upD]; exact hb.up, ?_⟩
  rw [closeCycle_eq, runPendingTest_txD, (fillStage_txD _ _ _).1, staleTrigger_txD, closing_txD]
  exact hb.sending

theorem closeCycle_sends (k : CloseKind) (s : State) : SendsAs s (closeCycle k s) := ⟨by simp, by simp, by simp⟩

theorem segmentOver_requeue (s : State) (tx : Option (List Byte)) (rt : List (List Byte)) :
    segmentOver (s.requeue s.forward tx rt) = (segmentOver s).requeue (segmentOver s).forward tx rt := rfl

/-- The end of a segment's work, a close or none, leaves on a busy line the same from a settled state as from an unsettled one. -/
theorem settle_segmentOver_busy {s : State} (hb : LineBusy s) :
    settle (segmentOver (settle s)) = settle (segmentOver s) := by
  rw [settle_eq_requeue hb ⟨rfl, rfl, rfl⟩, segmentOver_requeue]
  exact settle_requeue (segmentOver_busy hb) ⟨rfl, rfl, rfl⟩

theorem settle_segmentOver_closeCycle_busy {s : State} (hb : LineBusy s) (k : CloseKind) :
    settle (segmentOver (closeCycle k (settle s))) = settle (segmentOver (closeCycle k s)) := by
  rw [settle_eq_requeue hb ⟨rfl, rfl, rfl⟩, closeCycle_requeue, segmentOver_requeue]
  exact settle_requeue (segmentOver_busy (closeCycle_busy hb k)) ((closeCycle_sends k s).trans (segmentOver_sends _))

end Sys2Proof.Machine
end

section
/-! ### An arrival whole, and a processed segment's row (R23 to R31, R41) -/

namespace Sys2Proof.Machine

theorem clearMap_get (c : Chan) : clearMap[c] = false := by simp [clearMap]

/-- A processed segment is one of the open cycle, or opens a cycle (R25 to R29). -/
theorem arrive_processed_cases {n : CycleNo} {i : Nat} {s : State} (h : (arrive n i s).1 = true) :
    (s.tracker.state = .opened ∧ n = s.tracker.lastCycle ∧ s.tracker.lastIndex < i) ∨ OpensCycle s n i := by
  rw [arrive_processed] at h
  rcases h with h | ⟨ho, ⟨hn, hi⟩ | ha⟩ | ⟨hc, ha⟩
  · exact .inr (.inl h)
  · exact .inl ⟨ho, hn, hi⟩
  · exact .inr (.inr ⟨by rw [ho]; decide, ha⟩)
  · exact .inr (.inr ⟨by rw [hc]; decide, ha⟩)

theorem arrive_inCycle_tracker {s : State} (hs : s.tracker.state = .opened) {i : Nat} (hi : s.tracker.lastIndex < i) :
    (arrive s.tracker.lastCycle i s).2.tracker = { s.tracker with lastIndex := i } := by
  obtain ⟨u, hu, rfl | ⟨b, rfl⟩⟩ := arrive_inCycle hs hi <;> rw [hu] <;> rfl

/-- Where a processed segment leaves the tracker: OPEN at its number and index, the skipped numbers counted; and a cycle opened begins
with nothing lost, seen or repeated, its timer running (R26 to R31). -/
theorem arrive_leaves {n : CycleNo} {i : Nat} {s : State} (h : (arrive n i s).1 = true) :
    (arrive n i s).2.tracker.state = .opened ∧ (arrive n i s).2.tracker.lastCycle = n ∧
      (arrive n i s).2.tracker.lastIndex = i ∧
      (arrive n i s).2.tracker.lostTotal =
        (if s.tracker.state ≠ .nosync ∧ n ≠ s.tracker.lastCycle then
          min 65535 (s.tracker.lostTotal + ((n - s.tracker.lastCycle).toNat - 1)) else s.tracker.lostTotal) ∧
      (¬ (s.tracker.state = .opened ∧ n = s.tracker.lastCycle) →
        (arrive n i s).2.tracker.consecutiveLost = 0 ∧
        (arrive n i s).2.tracker.timer = some (arrive n i s).2.params.cycleTimeout ∧
        ∀ c : Chan, (arrive n i s).2.tracker.seen[c] = false ∧ (arrive n i s).2.repeats[c] = false) := by
  rcases arrive_processed_cases h with ⟨ho, rfl, hi⟩ | hopen
  · rw [arrive_inCycle_tracker ho hi, if_neg (by simp)]
    exact ⟨ho, rfl, rfl, rfl, fun hn => absurd ⟨ho, rfl⟩ hn⟩
  · obtain ⟨-, htracker, hrepeats⟩ := arrive_opens hopen
    rw [hrepeats, htracker]
    refine ⟨rfl, rfl, rfl, ?_, fun _ => ⟨rfl, rfl, fun c => ⟨clearMap_get c, clearMap_get c⟩⟩⟩
    rcases hopen with ⟨hs, -⟩ | ⟨hs, ha⟩
    · rw [if_pos hs, if_neg (fun hn => hn.1 hs)]
    · rw [if_neg hs, if_pos ⟨hs, ne_of_ahead ha⟩]
      rfl

/-- An ahead arrival in OPEN is the close by arrival, and then what the arrival does in CLOSED (R28). -/
theorem arrive_aheadOpened_twice {s : State} (hs : s.tracker.state = .opened) {n : CycleNo}
    (ha : ahead n s.tracker.lastCycle = true) (i : Nat) : arrive n i s = arrive n i (closeCycle (.byArrival n i) s) := by
  have hk := closeCycle_tracker (.byArrival n i) s
  rw [arrive_aheadOpened hs ha, arrive_aheadClosed] <;> rw [hk]
  exact ha

/-- The samples' work leaves the cycle open (R46 to R64). -/
theorem samplesFrom_state (l : List SampleEntry) (p : State × List SampleEntry) :
    (samplesFrom p l).1.tracker.state = p.1.tracker.state := by
  induction l generalizing p with
  | nil => rfl
  | cons x l ih => exact (ih _).trans (sampleWork_state x p.1)

theorem samplesFrom_busy (l : List SampleEntry) {p : State × List SampleEntry} (hb : LineBusy p.1) :
    LineBusy (samplesFrom p l).1 := by
  induction l generalizing p with
  | nil => exact hb
  | cons x l ih => exact ih (sampleWork_busy hb x)

/-- The row of a processed SEG on any line, with any events between its samples (R41, R65, R171). -/
theorem exec_segment {s : State} {g : Segment} {line : List Pattern} {last : Pattern} {r : Receiver}
    (hl : g.entries.length ≤ 48) (hd : Delivers s .u (line ++ [last]) ⟨(Frame.seg g).bytes, false⟩ .endSymbol r)
    (hf : ForwardSettled s) (hp : placesTaken s.forward < 4)
    (ha : (arrive g.cycle g.index (placed g r s)).1 = true) (between : List (List Between)) :
    let a := (arrive g.cycle g.index (placed g r s)).2
    let v := segmentWork g [] g.entries between (settle (reshown g g.entries g.entries.isEmpty a))
    exec (.frameReceived .u line last between) s =
      .next (settle (segmentOver
        (if g.segByte.msb = true ∧ v.tracker.state = .opened then closeCycle .complete v else v))) :=
  (hd.segment hl hp between).trans (congrArg act (segmentArrival_processed hf between ha))

/-- The row of a processed SEG on a busy line, with no event between its samples: the arrival, the samples' work one after another, and
the close of a last flag (R27, R41). -/
theorem exec_segment_busy {s : State} {g : Segment} {line : List Pattern} {last : Pattern} {r : Receiver}
    (hl : g.entries.length ≤ 48) (hd : Delivers s .u (line ++ [last]) ⟨(Frame.seg g).bytes, false⟩ .endSymbol r)
    (hf : ForwardSettled s) (hp : placesTaken s.forward < 4)
    (ha : (arrive g.cycle g.index (placed g r s)).1 = true) (hb : LineBusy s) :
    let w := samplesWork g.entries (arrive g.cycle g.index (placed g r s)).2
    let v := showing g w.2 true w.1
    exec (.frameReceived .u line last []) s =
      .next (settle (segmentOver (if g.segByte.msb = true then closeCycle .complete v else v))) := by
  have hfr := arrive_frame ha
  have hba : LineBusy (arrive g.cycle g.index (placed g r s)).2 := hb.of_eq hfr.up hfr.tx
  have hwork := segmentWork_busy g g.entries hba
  have hbv : LineBusy (samplesWork g.entries (arrive g.cycle g.index (placed g r s)).2).1 :=
    samplesFrom_busy g.entries (p := (_, [])) hba
  have hst : (samplesWork g.entries (arrive g.cycle g.index (placed g r s)).2).1.tracker.state = .opened :=
    (samplesFrom_state g.entries (_, [])).trans hfr.opened
  dsimp only
  refine (exec_segment hl hd hf hp ha []).trans (congrArg _ ?_)
  rw [hwork]
  generalize samplesWork g.entries (arrive g.cycle g.index (placed g r s)).2 = w at hbv hst
  have hv : LineBusy (showing g w.2 true w.1) := hbv.of_eq rfl rfl
  have hopen : (settle (showing g w.2 true w.1)).tracker.state = .opened := by rw [settle_tracker]; exact hst
  by_cases hm : g.segByte.msb = true
  · rw [if_pos ⟨hm, hopen⟩, if_pos hm]
    exact settle_segmentOver_closeCycle_busy hv .complete
  · rw [if_neg (fun h => hm h.1), if_neg hm]
    exact settle_segmentOver_busy hv

/-- Settles O24, by the branches of an arrival and the row that follows it. -/
theorem trackerJudgesAnArrival : Obligations.TrackerJudgesAnArrival := by
  unfold Obligations.TrackerJudgesAnArrival
  refine ⟨fun n i s => ⟨arrive_processed n i s, arrive_leaves, ?_⟩, fun s g line last r hl hd hf hp => ?_⟩
  · refine ⟨fun hs hi => ?_, fun hs hi => arrive_turnedAway hs n hi, fun hs hn hi => ?_, fun hs ha => arrive_late ?_ ha i,
      fun hs hn hi => ?_, fun hs hn hi => ?_, fun hs ha => arrive_aheadOpened_twice hs ha i, fun hs ha => ?_, ?_⟩
    · subst hi; exact arrive_restored hs n
    · subst hn; exact arrive_repeated hs hi
    · exact hs
    · subst hn hi; exact arrive_next hs
    · subst hn; exact (arrive_gap hs hi).trans rfl
    · exact (arrive_aheadClosed hs ha i).trans (congrArg _ (openAhead_eq hs n i))
    · exact openCycle_eq n i s
  · intro a ha
    exact ⟨exec_segment_busy hl hd hf hp ha, exec_segment hl hd hf hp ha⟩

end Sys2Proof.Machine
end

section
/-! ### A discarded segment (R23, R25, R26, R30) -/

namespace Sys2Proof.Machine

theorem segmentArrival_dropped {g : Segment} {u : State} (ha : (arrive g.cycle g.index u).1 = false)
    (hm : u.tables.deviceMode = .active) (b : List (List Between)) :
    segmentArrival g b u = dropIncomplete (arrive g.cycle g.index u).2 := by
  rw [segmentArrival, ha]
  exact if_pos hm

theorem segmentArrival_passedOn {g : Segment} {u : State} (ha : (arrive g.cycle g.index u).1 = false)
    (hm : u.tables.deviceMode = .bypass) (b : List (List Between)) :
    segmentArrival g b u = segmentOver (completeFrames (arrive g.cycle g.index u).2) := by
  have hn : ¬ u.tables.deviceMode = .active := by rw [hm]; decide
  rw [segmentArrival, ha]
  exact if_neg hn

/-- A SEG discarded in ACTIVE leaves the queue as it was (R189). -/
theorem dropIncomplete_placed {s : State} (hf : ForwardSettled s) (g : Segment) (r : Receiver) :
    dropIncomplete (placed g r s) = { s with rxU := r } := by
  have h : (s.forward ++ [fresh g]).filter (·.complete) = s.forward := by
    rw [List.filter_append, List.filter_eq_self.mpr fun q hq => (hf.1 q hq).1]
    exact List.append_nil _
  change { s with rxU := r, forward := (s.forward ++ [fresh g]).filter (·.complete) } = _
  rw [h]

/-- Settles O25: each verdict but `processed` is one report, which commutes with the dropping of the frame. -/
theorem discardedSegmentLeavesOnlyItsReport : Obligations.DiscardedSegmentLeavesOnlyItsReport := by
  unfold Obligations.DiscardedSegmentLeavesOnlyItsReport
  intro s g line last r b hl hd hm hf hp
  have drop : ∀ f : State → State, arrive g.cycle g.index (placed g r s) = (false, f (placed g r s)) →
      dropIncomplete (f (placed g r s)) = f (dropIncomplete (placed g r s)) →
      exec (.frameReceived .u line last b) s = .next (settle (f { s with rxU := r })) := fun f ha hcomm => by
    rw [hd.segment hl hp, segmentArrival_dropped (u := placed g r s) (by rw [ha]) hm, ha, hcomm, dropIncomplete_placed hf]
    rfl
  refine ⟨fun hs hi => ?_, fun hs hn hi => ?_, fun hs hn ha => ?_, fun hs ha => ?_⟩
  · exact drop (fun u => { u with counters := { u.counters with unsyncCount := saturate u.counters.unsyncCount 1 } })
      (arrive_turnedAway (s := placed g r s) hs _ hi) rfl
  · refine drop (submit (some s.tracker.lastCycle) _) ?_ rfl
    rw [hn]
    exact arrive_repeated (s := placed g r s) hs hi
  · exact drop (submit (some s.tracker.lastCycle) _) (arrive_late (s := placed g r s) (.inr ⟨hs, hn⟩) ha _) rfl
  · exact drop (submit (some s.tracker.lastCycle) _) (arrive_late (s := placed g r s) (.inl hs) ha _) rfl

/-! ### The channels a segment carries (R32, R46) -/

/-- The seen map with the table channel of a sample marked (R32, R46). -/
def markCarried (seen : Vector Bool 96) (x : SampleEntry) : Vector Bool 96 :=
  if h : x.channel.toNat < 96 then seen.set x.channel.toNat true else seen

/-- The seen map behind some samples. -/
def carried (seen : Vector Bool 96) (l : List SampleEntry) : Vector Bool 96 := l.foldl markCarried seen

theorem markCarried_get (seen : Vector Bool 96) (x : SampleEntry) (c : Chan) :
    (markCarried seen x)[c] = true ↔ seen[c] = true ∨ x.channel.toNat = c.val := by
  have hc := c.isLt
  unfold markCarried
  split
  · simp only [Fin.getElem_fin, Vector.getElem_set]
    split
    · simp_all
    · simp_all
  · exact ⟨.inl, fun h => h.elim id fun h => by omega⟩

theorem carried_get (seen : Vector Bool 96) (l : List SampleEntry) (c : Chan) :
    (carried seen l)[c] = true ↔ seen[c] = true ∨ ∃ x ∈ l, x.channel.toNat = c.val := by
  induction l generalizing seen with
  | nil => simp [carried]
  | cons x l ih =>
    rw [carried, List.foldl_cons, ← carried, ih, markCarried_get]
    simp [or_assoc]

/-- What the work on some samples leaves of port D, the Forward Queue, the tables and the tracker (R46 to R64). -/
theorem samplesFrom_frame (l : List SampleEntry) (p : State × List SampleEntry) (ho : p.1.tracker.state = .opened) :
    SampleFrame p.1 (samplesFrom p l).1 (carried p.1.tracker.seen l) := by
  induction l generalizing p with
  | nil => exact ⟨rfl, rfl, rfl, rfl, rfl⟩
  | cons x l ih =>
    have hx : SampleFrame p.1 (sampleWork x p.1).1 (markCarried p.1.tracker.seen x) := (sampleWork_spec x p.1 ho).1
    have hrest := ih ((sampleWork x p.1).1, p.2 ++ (sampleWork x p.1).2.toList) ((sampleWork_state x p.1).trans ho)
    obtain ⟨up, tx, forward, tables, tracker⟩ := hrest
    dsimp only at up tx forward tables tracker
    refine ⟨up.trans hx.up, tx.trans hx.tx, forward.trans hx.forward, tables.trans hx.tables, ?_⟩
    rw [hx.tracker] at tracker
    exact tracker

/-- What comes out of some samples' work stands behind what came out before. -/
theorem samplesFrom_out (l : List SampleEntry) (s : State) (out : List SampleEntry) :
    samplesFrom (s, out) l = ((samplesWork l s).1, out ++ (samplesWork l s).2) := by
  induction l generalizing s out with
  | nil => simp [samplesFrom, samplesWork]
  | cons x l ih =>
    have h : ∀ out', samplesFrom (s, out') (x :: l) = samplesFrom ((sampleWork x s).1, out' ++ (sampleWork x s).2.toList) l :=
      fun _ => rfl
    rw [samplesWork_eq, h, h, ih, ih]
    simp

theorem samplesWork_cons (x : SampleEntry) (l : List SampleEntry) (s : State) :
    samplesWork (x :: l) s =
      ((samplesWork l (sampleWork x s).1).1, (sampleWork x s).2.toList ++ (samplesWork l (sampleWork x s).1).2) :=
  (samplesFrom_out l (sampleWork x s).1 ([] ++ (sampleWork x s).2.toList)).trans (by rw [List.nil_append])

/-! ### BYPASS (R44, R87) -/

theorem checked_bypass {s : State} (hm : s.tables.deviceMode = .bypass) (c : Chan) : s.checked c = false := by
  simp [State.checked, hm]

/-- In BYPASS a STALE trigger evaluates nothing (R44, R75). -/
theorem staleOver_bypass {s : State} (hm : s.tables.deviceMode = .bypass) (n : CycleNo) (seen : Vector Bool 96) (l : List Chan) :
    staleOver n seen l s = s := by
  induction l with
  | nil => rfl
  | cons c l ih => rw [staleOver, takesStale, checked_bypass hm]; exact ih

theorem staleTrigger_bypass {s : State} (hm : s.tables.deviceMode = .bypass) (n : CycleNo) (seen : Vector Bool 96) :
    staleTrigger n seen s = s := staleOver_bypass hm n seen allChannels

theorem staleRun_bypass {s : State} (hm : s.tables.deviceMode = .bypass) (k : Nat) (n : CycleNo) : staleRun k n s = s := by
  induction k generalizing n with
  | zero => rfl
  | succ k ih => rw [staleRun, staleTrigger_bypass hm, ih]

/-- A close in BYPASS judges no channel and builds no FILL (R34, R44). -/
theorem closeCycle_bypass {s : State} (hm : s.tables.deviceMode = .bypass) (k : CloseKind) :
    closeCycle k s = runPendingTest s.tracker.lastCycle (nameEnding k (closing k s)) := by
  have hc : (closing k s).tables.deviceMode = .bypass := by rw [closing_tables]; exact hm
  rw [closeCycle_eq, staleTrigger_bypass hc, fillStage_unbuilt (.inl hc)]

/-- In BYPASS with nothing pending: what cannot change in an arrival (R44, R87, R137). -/
structure BypassFrame (s t : State) : Prop where
  tables : t.tables = s.tables
  channels : t.channels = s.channels
  forward : t.forward = s.forward

theorem BypassFrame.trans {s t u : State} (h : BypassFrame s t) (h' : BypassFrame t u) : BypassFrame s u :=
  ⟨h'.tables.trans h.tables, h'.channels.trans h.channels, h'.forward.trans h.forward⟩

theorem submit_bypassFrame (n : Option CycleNo) (b : RecordBody) (s : State) : BypassFrame s (submit n b s) := ⟨rfl, rfl, rfl⟩

/-- Nothing is pending that an open could make (R124, R128, R139). -/
structure NothingPending (s : State) : Prop where
  commit : s.tables.commit = none
  mode : s.tables.modeChange = false

theorem NothingPending.congr {s t : State} (h : NothingPending s) (ht : t.tables = s.tables) : NothingPending t :=
  ⟨by rw [ht]; exact h.commit, by rw [ht]; exact h.mode⟩

/-- An open with nothing pending changes no table and no runtime record (R31, R128, R139). -/
theorem NothingPending.openCycle {s : State} (h : NothingPending s) (n : CycleNo) (i : Nat) :
    BypassFrame s (openCycle n i s) := by
  have hb := h.congr (t := beginCycle n i s) rfl
  have ho : Machine.openCycle n i s = startTimer (groupsOpen (beginCycle n i s)) := by
    rw [Machine.openCycle, tableStoreOpen_idle hb.commit hb.mode]
  exact ⟨by rw [ho]; simp, by rw [ho]; simp, by simp⟩

theorem NothingPending.openAhead {s : State} (h : NothingPending s) (hm : s.tables.deviceMode = .bypass) (n : CycleNo) (i : Nat) :
    BypassFrame s (openAhead n i s) := by
  unfold Machine.openAhead
  dsimp only
  generalize hu : staleRun _ _ _ = u
  have hsu : BypassFrame s u := by
    rw [← hu]
    split <;> rw [staleRun_bypass (by exact hm)] <;> exact ⟨rfl, rfl, rfl⟩
  have ho := hsu.trans ((h.congr hsu.tables).openCycle n i)
  split
  · exact ho
  · exact ho.trans (submit_bypassFrame ..)

theorem closeCycle_byArrival_bypassFrame {s : State} (hm : s.tables.deviceMode = .bypass) (n : CycleNo) (i : Nat) :
    BypassFrame s (closeCycle (.byArrival n i) s) := by
  rw [closeCycle_bypass hm]
  exact ⟨by simp only [runPendingTest_tables]; rfl, by simp only [runPendingTest_channels]; rfl,
    by simp only [runPendingTest_forward]; rfl⟩

/-- In BYPASS with nothing pending an arrival touches no table, no runtime record and no queued frame (R44, R87, R137). -/
theorem NothingPending.arrive {s : State} (h : NothingPending s) (hm : s.tables.deviceMode = .bypass) {n : CycleNo} {i : Nat}
    (ha : (arrive n i s).1 = true) : BypassFrame s (arrive n i s).2 := by
  rw [arrive_processed] at ha
  rcases ha with ⟨hs, rfl⟩ | ⟨hs, ⟨rfl, hi⟩ | ha⟩ | ⟨hs, ha⟩
  · rw [arrive_restored hs]
    exact (h.openCycle n 0).trans (submit_bypassFrame ..)
  · obtain ⟨u, hu, rfl | ⟨b, rfl⟩⟩ := arrive_inCycle hs hi <;> rw [hu] <;> exact ⟨rfl, rfl, rfl⟩
  · have hc := closeCycle_byArrival_bypassFrame hm n i
    rw [arrive_aheadOpened hs ha]
    exact hc.trans ((h.congr hc.tables).openAhead (by rw [hc.tables]; exact hm) n i)
  · rw [arrive_aheadClosed hs ha]
    exact h.openAhead hm n i

end Sys2Proof.Machine
end

section
/-! ### A processed segment seen in the queue: the entries it shows and the mark it ends with (R34, R41, R50) -/

namespace Sys2Proof.Machine

/-- The SEG under way once its samples are worked: it shows what came out (R50, R189). -/
def worked (g : Segment) (l : List SampleEntry) (ending underway : Bool) : Queued :=
  ⟨.seg { g with entries := l }, false, true, ending, underway⟩

/-- A map over the queue that changes only the SEG under way leaves the frames of a settled queue. -/
theorem map_settled {s : State} (hf : ForwardSettled s) {f : Queued → Queued}
    (h : ∀ q : Queued, q.complete = true → q.underway = false → f q = q) : s.forward.map f = s.forward :=
  (List.map_congr_left fun q hq => h q (hf.1 q hq).1 (hf.1 q hq).2.1).trans (List.map_id _)

section
variable {s : State} (hf : ForwardSettled s) (g : Segment) (l : List SampleEntry)
include hf

theorem showing_forward {u : State} (hu : u.forward = s.forward ++ [fresh g]) :
    (showing g l true u).forward = s.forward ++ [worked g l false true] := by
  change u.forward.map _ = _
  rw [hu, List.map_append, map_settled hf fun q _ hq => by simp [hq]]
  rfl

theorem segmentOver_forward {u : State} {e : Bool} (hu : u.forward = s.forward ++ [worked g l e true]) :
    (segmentOver u).forward = s.forward ++ [worked g l e false] := by
  change u.forward.map _ = _
  rw [hu, List.map_append, map_settled hf fun q _ hq => by rw [← hq]]
  rfl

/-- A complete close without a FILL marks its closing SEG and no other frame (R34). -/
theorem nameEnding_complete_forward {u : State} (hu : u.forward = s.forward ++ [worked g l false true]) :
    (nameEnding .complete u).forward = s.forward ++ [worked g l true true] := by
  change u.forward.map _ = _
  have hmark : ∀ q : Queued, q.complete = true → q.underway = false → { q with ending := q.ending || q.underway } = q :=
    fun q _ hq => by
      have he : (q.ending || q.underway) = q.ending := by rw [hq, Bool.or_false]
      rw [he]
  rw [hu, List.map_append, map_settled hf hmark]
  rfl

end

/-! ### A SEG in BYPASS (R34, R44, R87) -/

/-- What a discarded segment leaves is one report, made in any state with the same tracker (R25, R26, R30). -/
theorem arrive_discarded {n : CycleNo} {i : Nat} {s : State} (h : (arrive n i s).1 = false) :
    ∃ f : State → State,
      (f = (fun u => { u with counters := { u.counters with unsyncCount := saturate u.counters.unsyncCount 1 } }) ∨
        ∃ m b, f = submit m b) ∧
      ∀ t : State, t.tracker = s.tracker → arrive n i t = (false, f t) := by
  cases hs : s.tracker.state with
  | nosync =>
    have hi : i ≠ 0 := by rintro rfl; rw [arrive_restored hs] at h; cases h
    exact ⟨_, .inl rfl, fun t ht => arrive_turnedAway (by rw [ht]; exact hs) n hi⟩
  | opened =>
    by_cases hn : n = s.tracker.lastCycle
    · have hi : i ≤ s.tracker.lastIndex := by
        by_contra hi
        have := (arrive_processed n i s).mpr (.inr (.inl ⟨hs, .inl ⟨hn, Nat.not_le.mp hi⟩⟩))
        rw [h] at this; cases this
      refine ⟨submit (some s.tracker.lastCycle) (.seq .segDup none (some (s.tracker.lastCycle, i))), .inr ⟨_, _, rfl⟩,
        fun t ht => ?_⟩
      rw [hn, ← ht]
      rw [← ht] at hs hi
      exact arrive_repeated hs hi
    · have ha : ahead n s.tracker.lastCycle = false := by
        cases ha : ahead n s.tracker.lastCycle with
        | false => rfl
        | true => rw [arrive_aheadOpened hs ha] at h; cases h
      exact ⟨_, .inr ⟨_, _, rfl⟩, fun t ht => by
        rw [arrive_late (.inr ⟨by rw [ht]; exact hs, by rw [ht]; exact hn⟩) (by rw [ht]; exact ha), ht]⟩
  | closed =>
    have ha : ahead n s.tracker.lastCycle = false := by
      cases ha : ahead n s.tracker.lastCycle with
      | false => rfl
      | true => rw [arrive_aheadClosed hs ha] at h; cases h
    exact ⟨_, .inr ⟨_, _, rfl⟩, fun t ht => by
      rw [arrive_late (.inl (by rw [ht]; exact hs)) (by rw [ht]; exact ha), ht]⟩

/-- The verdict is read from the tracker alone (R24). -/
theorem arrive_verdict_congr {s t : State} (h : t.tracker = s.tracker) (n : CycleNo) (i : Nat) :
    (arrive n i t).1 = (arrive n i s).1 := by
  rw [Bool.eq_iff_iff, arrive_processed, arrive_processed, h]

/-- Where a processed segment leaves the tracker depends on the tracker and on the timeout active behind the arrival (R26 to R31). -/
theorem arrive_tracker_congr {s t : State} (h : t.tracker = s.tracker) {n : CycleNo} {i : Nat} (ha : (arrive n i s).1 = true)
    (hp : (arrive n i t).2.params = (arrive n i s).2.params) : (arrive n i t).2.tracker = (arrive n i s).2.tracker := by
  rcases arrive_processed_cases ha with ⟨ho, rfl, hi⟩ | hopen
  · rw [arrive_inCycle_tracker ho hi, ← h]
    exact arrive_inCycle_tracker (by rw [h]; exact ho) (by rw [h]; exact hi)
  · have hopen' : OpensCycle t n i := by rw [OpensCycle, h]; exact hopen
    rw [(arrive_opens hopen').2.1, (arrive_opens hopen).2.1, hp, h]

/-- In BYPASS the samples of an open cycle pass unaltered, and their channels are seen (R44, R46). -/
theorem samplesWork_bypass {s : State} (hm : s.tables.deviceMode = .bypass) (ho : s.tracker.state = .opened)
    (l : List SampleEntry) :
    samplesWork l s = ({ s with tracker := { s.tracker with seen := carried s.tracker.seen l } }, l) := by
  induction l generalizing s with
  | nil => rfl
  | cons x l ih =>
    have hx : sampleWork x s = ({ s with tracker := { s.tracker with seen := markCarried s.tracker.seen x } }, some x) := by
      rw [sampleWork, if_neg (by simp [ho]), tableChannel, markCarried]
      by_cases h : x.channel.toNat < 96
      · simp only [h, dif_pos, checked_bypass hm]; rfl
      · simp only [h, dif_neg, not_false_eq_true]
    rw [samplesWork_cons, hx, ih (s := { s with tracker := { s.tracker with seen := markCarried s.tracker.seen x } }) hm ho]
    rfl

/-- A SEG with its place, complete and done with, on a settled part. -/
theorem segmentOver_completeFrames_placed {s : State} (hf : ForwardSettled s) (g : Segment) (r : Receiver) :
    segmentOver (completeFrames (placed g r s)) =
      { s with rxU := r, forward := s.forward ++ [⟨.seg g, false, true, false, false⟩] } := by
  have hfw : (segmentOver (completeFrames (placed g r s))).forward = s.forward ++ [⟨.seg g, false, true, false, false⟩] := by
    change ((s.forward ++ [fresh g]).map _).map _ = _
    rw [List.map_append, List.map_append, map_settled hf fun q hq _ => by rw [← hq],
      map_settled hf fun q _ hq => by rw [← hq]]
    rfl
  have htx : (segmentOver (completeFrames (placed g r s))).txD = s.txD := by
    have h := congrArg State.txD (segmentOver_settled hf)
    exact h
  change { s with rxU := r, txD := (segmentOver (completeFrames (placed g r s))).txD
                  forward := (segmentOver (completeFrames (placed g r s))).forward } = _
  rw [hfw, htx]

/-- The row of a SEG discarded in BYPASS: it is forwarded as it came, and its report is made (R23, R25, R26, R30). -/
theorem exec_segment_passedOn {s : State} {g : Segment} {line : List Pattern} {last : Pattern} {r : Receiver}
    (hl : g.entries.length ≤ 48) (hd : Delivers s .u (line ++ [last]) ⟨(Frame.seg g).bytes, false⟩ .endSymbol r)
    (hm : s.tables.deviceMode = .bypass) (hf : ForwardSettled s) (hp : placesTaken s.forward < 4)
    (ha : (arrive g.cycle g.index s).1 = false) (b : List (List Between)) :
    exec (.frameReceived .u line last b) s =
      .next (settle { (arrive g.cycle g.index s).2 with
        rxU := r, forward := s.forward ++ [⟨.seg g, false, true, false, false⟩] }) := by
  obtain ⟨f, hcase, hreport⟩ := arrive_discarded ha
  have hu := hreport (placed g r s) rfl
  have hover := segmentOver_completeFrames_placed hf g r
  rw [hd.segment hl hp, segmentArrival_passedOn (u := placed g r s) (by rw [hu]) hm, hu, hreport s rfl]
  rcases hcase with rfl | ⟨m, d, rfl⟩
  · exact congrArg (fun u : State => act
      { u with counters := { s.counters with unsyncCount := saturate s.counters.unsyncCount 1 } }) hover
  · exact congrArg (fun u => act (submit m d u)) hover

end Sys2Proof.Machine
end

section
/-! ### Every segment in BYPASS, whole (R34, R44, R87) -/

namespace Sys2Proof.Machine

/-- What a busy line's settling leaves: all but the frames of port U's transmit side. -/
structure BusyFrame (s t : State) : Prop where
  forward : t.forward = s.forward
  channels : t.channels = s.channels
  tables : t.tables = s.tables
  tracker : t.tracker = s.tracker

theorem settle_busyFrame {s : State} (hb : LineBusy s) : BusyFrame s (settle s) :=
  ⟨by rw [settle_busy_frame hb], settle_channels s, settle_tables s, settle_tracker s⟩

/-- What a processed SEG in BYPASS leaves, with or without the close of its last flag (R27, R34, R44). -/
theorem bypass_processed {s a : State} (hf : ForwardSettled s) {g : Segment} (hm : a.tables.deviceMode = .bypass)
    (ho : a.tracker.state = .opened) (hfw : a.forward = s.forward ++ [fresh g]) :
    let w := samplesWork g.entries a
    let v := showing g w.2 true w.1
    let u := segmentOver (if g.segByte.msb = true then closeCycle .complete v else v)
    u.forward = s.forward ++ [⟨.seg g, false, true, g.segByte.msb, false⟩] ∧ u.channels = a.channels ∧ u.tables = a.tables ∧
      u.tracker =
        { a.tracker with
          seen := carried a.tracker.seen g.entries
          state := if g.segByte.msb = true then .closed else .opened
          timer := if g.segByte.msb = true then some a.params.cycleTimeout else a.tracker.timer } := by
  rw [samplesWork_bypass hm ho]
  dsimp only
  generalize hv : showing g g.entries true _ = v
  have hvf : v.forward = s.forward ++ [worked g g.entries false true] := by
    rw [← hv]; exact showing_forward hf g g.entries hfw
  have hvk : v.tracker = { a.tracker with seen := carried a.tracker.seen g.entries } := by rw [← hv]; rfl
  have hvt : v.tables = a.tables := by rw [← hv]; rfl
  have hvc : v.channels = a.channels := by rw [← hv]; rfl
  cases hl : g.segByte.msb
  · refine ⟨segmentOver_forward hf g g.entries hvf, hvc, hvt, ?_⟩
    simp only [Bool.false_eq_true, if_false, segmentOver_tracker, hvk, ← ho]
  · have hclose := closeCycle_bypass (s := v) (by rw [hvt]; exact hm) .complete
    simp only [if_true]
    refine ⟨segmentOver_forward hf g g.entries (e := true) ?_, ?_, ?_, ?_⟩
    · rw [hclose, runPendingTest_forward]
      exact nameEnding_complete_forward hf g g.entries ((closing_forward .complete v).trans hvf)
    · rw [segmentOver_channels, hclose, runPendingTest_channels]
      exact hvc
    · rw [segmentOver_tables, closeCycle_tables, hvt]
    · rw [segmentOver_tracker, closeCycle_tracker, hvk, State.params_congr hvt]

/-- A discarded segment's report leaves port D, the tracker, the tables and the runtime records (R25, R26, R30). -/
theorem arrive_discarded_frame {n : CycleNo} {i : Nat} {s : State} (h : (arrive n i s).1 = false) :
    (arrive n i s).2.upD = s.upD ∧ (arrive n i s).2.txD = s.txD ∧ (arrive n i s).2.tables = s.tables ∧
      (arrive n i s).2.channels = s.channels := by
  obtain ⟨f, hcase, hreport⟩ := arrive_discarded h
  rw [hreport s rfl]
  rcases hcase with rfl | ⟨m, b, rfl⟩ <;> exact ⟨rfl, rfl, rfl, rfl⟩

/-- The line stays busy through a processed segment's work (R41). -/
theorem segment_busy (g : Segment) {a : State} (hb : LineBusy a) :
    let w := samplesWork g.entries a
    let v := showing g w.2 true w.1
    LineBusy (segmentOver (if g.segByte.msb = true then closeCycle .complete v else v)) := by
  have hw : LineBusy (samplesWork g.entries a).1 := samplesFrom_busy g.entries (p := (a, [])) hb
  have hv : LineBusy (showing g (samplesWork g.entries a).2 true (samplesWork g.entries a).1) := hw.of_eq rfl rfl
  refine segmentOver_busy ?_
  split
  · exact closeCycle_busy hv .complete
  · exact hv

/-- Settles O26, by the arrival's verdict. -/
theorem bypassForwardsEverySegmentUntouched : Obligations.BypassForwardsEverySegmentUntouched := by
  unfold Obligations.BypassForwardsEverySegmentUntouched
  intro s g line last r hl hd hm hc hpm hf hp hb a
  have hdef : a = arrive g.cycle g.index s := rfl
  clear_value a
  subst hdef
  cases ha : (arrive g.cycle g.index s).1 with
  | false =>
    obtain ⟨hup, htx, htab, hch⟩ := arrive_discarded_frame ha
    have hrow := exec_segment_passedOn hl hd hm hf hp ha
    have hbusy : LineBusy { (arrive g.cycle g.index s).2 with
        rxU := r, forward := s.forward ++ [⟨.seg g, false, true, false, false⟩] } := hb.of_eq hup htx
    have hset := settle_busyFrame hbusy
    exact ⟨_, hrow [], hset.forward, hset.channels.trans hch, hset.tables.trans htab, fun _ => ⟨hset.tracker, hrow⟩, nofun⟩
  | true =>
    have ha' : (arrive g.cycle g.index (placed g r s)).1 = true :=
      (arrive_verdict_congr (s := s) (t := placed g r s) rfl g.cycle g.index).trans ha
    have hpend : NothingPending s := ⟨hc, hpm⟩
    have hframe := (hpend.congr (t := placed g r s) rfl).arrive hm ha'
    have htracker := arrive_tracker_congr (s := s) (t := placed g r s) rfl ha
      (State.params_congr (hframe.tables.trans (hpend.arrive hm ha).tables.symm))
    have hfr := arrive_frame ha'
    have hrow := exec_segment_busy hl hd hf hp ha' hb
    have hbusy : LineBusy (arrive g.cycle g.index (placed g r s)).2 := hb.of_eq hfr.up hfr.tx
    obtain ⟨hfw, hch, htab, hk⟩ := bypass_processed hf (by rw [hframe.tables]; exact hm) hfr.opened hframe.forward
    have hset := settle_busyFrame (segment_busy g hbusy)
    refine ⟨_, hrow, hset.forward.trans hfw, (hset.channels.trans hch).trans hframe.channels,
      (hset.tables.trans htab).trans hframe.tables, nofun, fun _ => ?_⟩
    rw [hset.tracker, hk, ← htracker]
    refine ⟨fun c => carried_get _ _ c, fun hlast => ?_, fun hlast => ?_⟩
    · simp only [hlast, Bool.false_eq_true, if_false, ← hfr.opened]
    · simp only [hlast, if_true, State.params_congr hframe.tables]
      rfl

end Sys2Proof.Machine
end

section
/-! ### What comes out of a segment's samples (R46 to R50) -/

namespace Sys2Proof.Machine

/-- The outgoing entry of a sample, where there is one, bears its channel (R45, R48). -/
theorem sampleWork_channel (x : SampleEntry) (s : State) :
    (sampleWork x s).2 = none ∨ ∃ y, (sampleWork x s).2 = some y ∧ y.channel = x.channel := by
  unfold sampleWork
  repeat' split
  · exact .inr ⟨x, rfl, rfl⟩
  · exact .inr ⟨x, rfl, rfl⟩
  · exact .inr ⟨x, rfl, rfl⟩
  · exact .inl rfl
  · exact .inr ⟨_, rfl, rfl⟩

/-- The entries that come out keep the order in which they came (R50). -/
theorem samplesWork_sublist (l : List SampleEntry) (s : State) :
    ((samplesWork l s).2.map (·.channel)).Sublist (l.map (·.channel)) := by
  induction l generalizing s with
  | nil => exact .refl _
  | cons x l ih =>
    have hl := ih (sampleWork x s).1
    rw [samplesWork_cons, List.map_append, List.map_cons]
    rcases sampleWork_channel x s with hx | ⟨y, hx, hy⟩
    · rw [hx]; exact hl.cons _
    · rw [hx, ← hy]; exact hl.cons_cons _

/-- A sample of another channel adds nothing to a channel's entries. -/
theorem sampleWork_filter_other {x : SampleEntry} {p : SampleEntry → Bool} (hp : ∀ y, y.channel = x.channel → p y = false)
    (s : State) : (sampleWork x s).2.toList.filter p = [] := by
  rcases sampleWork_channel x s with hx | ⟨y, hx, hy⟩
  · rw [hx]; rfl
  · rw [hx]; simp [hp y hy]

/-- A checked channel keeps its first entry of the cycle and no other (R47, R48). -/
theorem samplesWork_checked {s : State} (ho : s.tracker.state = .opened) (l : List SampleEntry) {c : Chan}
    (hc : s.checked c = true) :
    ((samplesWork l s).2.filter (fun x => x.channel.toNat == c.val)).length =
      if s.tracker.seen[c] = true then 0 else min 1 (l.filter (fun x => x.channel.toNat == c.val)).length := by
  induction l generalizing s with
  | nil => simp [samplesWork]
  | cons x l ih =>
    obtain ⟨hf, hdup, hjudged, -⟩ := sampleWork_spec x s ho
    have hseen : (sampleWork x s).1.tracker.seen = markCarried s.tracker.seen x := by rw [hf.tracker]; rfl
    have hrest := ih (s := (sampleWork x s).1) (by rw [hf.tracker]; exact ho) (by rw [State.checked_congr hf.tables]; exact hc)
    have hmark := markCarried_get s.tracker.seen x c
    rw [hseen] at hrest
    rw [samplesWork_cons, List.filter_append, List.length_append, hrest]
    by_cases hx : x.channel.toNat = c.val
    · rw [if_pos (hmark.mpr (.inr hx)), List.filter_cons_of_pos (by simpa using hx)]
      cases hs : s.tracker.seen[c]
      · obtain ⟨y, hy, hyc⟩ := hjudged c hx.symm hc hs
        simp [hy, hyc, hx]
      · simp [hdup c hx.symm hc hs]
    · rw [sampleWork_filter_other (fun y hy => by simpa [hy] using hx), List.filter_cons_of_neg (by simpa using hx)]
      simp only [List.length_nil, Nat.zero_add, hmark, hx, or_false]

/-- A channel number that names no checked channel keeps all its entries unaltered (R46, R50). -/
theorem samplesWork_unchecked {s : State} (ho : s.tracker.state = .opened) (l : List SampleEntry) {n : Byte}
    (hn : ∀ c : Chan, c.val = n.toNat → s.checked c = false) :
    (samplesWork l s).2.filter (fun x => x.channel == n) = l.filter (fun x => x.channel == n) := by
  induction l generalizing s with
  | nil => rfl
  | cons x l ih =>
    obtain ⟨hf, -, -, hpass⟩ := sampleWork_spec x s ho
    have hrest := ih (s := (sampleWork x s).1) (by rw [hf.tracker]; exact ho)
      (fun c hc => by rw [State.checked_congr hf.tables]; exact hn c hc)
    rw [samplesWork_cons, List.filter_append, hrest]
    by_cases hx : x.channel = n
    · rw [hpass (fun c hc => hn c (by rw [hc, hx]))]
      simp [hx]
    · rw [sampleWork_filter_other (fun y hy => by simpa [hy] using hx), List.filter_cons_of_neg (by simpa using hx)]
      rfl

/-! ### A segment of the open cycle in ACTIVE (R26, R27, R34, R99) -/

theorem isFilled_congr {s t : State} (ht : t.tables = s.tables) (hk : t.tracker.seen = s.tracker.seen) (n : CycleNo) :
    isFilled t n = isFilled s n := by
  funext c
  simp only [isFilled, State.entry_congr ht, hk]

/-- The state whose FILL a complete close builds: the close's own changes and its STALE evaluations made (R33). -/
def filling (s : State) : State := staleTrigger s.tracker.lastCycle s.tracker.seen (closing .complete s)

theorem filling_forward (s : State) : (filling s).forward = s.forward := by
  rw [filling, staleTrigger_forward, closing_forward]

theorem filling_tables (s : State) : (filling s).tables = s.tables := by
  rw [filling, staleTrigger_tables, closing_tables]

theorem filling_seen (s : State) : (filling s).tracker.seen = s.tracker.seen := by
  rw [filling, staleTrigger_tracker]; rfl

/-- The channels that a complete close fills (R96). -/
def missing (s : State) : List Chan := allChannels.filter (isFilled s s.tracker.lastCycle)

theorem missing_filling (s : State) :
    allChannels.filter (isFilled (filling s) s.tracker.lastCycle) = missing s := by
  rw [isFilled_congr (filling_tables s) (filling_seen s)]; rfl

/-- A complete close in ACTIVE with no channel missing, or with the reserved place held, ends with its closing SEG (R34, R99). -/
theorem closeCycle_ends_with_segment {s v : State} (hf : ForwardSettled s) {g : Segment} {l : List SampleEntry}
    (hv : v.forward = s.forward ++ [worked g l false true]) (hm : v.tables.deviceMode = .active)
    (h : missing v = [] ∨ s.forward.any (·.reserved) = true) :
    (closeCycle .complete v).forward = s.forward ++ [worked g l true true] := by
  have hfw := (filling_forward v).trans hv
  rw [closeCycle_forward]
  change (fillStage .complete v.tracker.lastCycle (filling v)).forward = _
  by_cases he : fillEntries (filling v) v.tracker.lastCycle = []
  · rw [fillStage_unbuilt (.inr he)]
    exact nameEnding_complete_forward hf g l hfw
  · have hr : s.forward.any (·.reserved) = true := h.resolve_left fun hn =>
      he ((fillEntries_eq_nil _ _).mpr ((missing_filling v).trans hn))
    rw [fillStage_held (by rw [filling_tables]; exact hm) he (by
      obtain ⟨q, hq, hres⟩ := List.any_eq_true.mp hr
      exact ⟨q, by rw [hfw]; exact List.mem_append_left _ hq, hres⟩)]
    refine nameEnding_complete_forward hf g l ?_
    dsimp only
    exact hfw

/-- A complete close in ACTIVE with a channel missing and the reserved place free ends with its FILL, behind the closing SEG (R34,
R99). -/
theorem closeCycle_ends_with_fill {s v : State} {g : Segment} {l : List SampleEntry}
    (hv : v.forward = s.forward ++ [worked g l false true]) (hm : v.tables.deviceMode = .active)
    (hmiss : missing v ≠ []) (hr : s.forward.any (·.reserved) = false) :
    ∃ f : List SampleEntry, f.map (·.channel.toNat) = (missing v).map (·.val) ∧
      (closeCycle .complete v).forward =
        s.forward ++ [worked g l false true, ⟨.fill v.tracker.lastCycle f, true, true, true, false⟩] := by
  have hfw := (filling_forward v).trans hv
  have he : fillEntries (filling v) v.tracker.lastCycle ≠ [] := fun he =>
    hmiss ((missing_filling v).symm.trans ((fillEntries_eq_nil _ _).mp he))
  have hfree : ∀ q ∈ (filling v).forward, q.reserved = false := fun q hq => by
    rw [hfw] at hq
    rcases List.mem_append.mp hq with hq | hq
    · exact any_reserved_eq_false.mp hr q hq
    · rw [List.mem_singleton.mp hq]; rfl
  refine ⟨fillEntries (filling v) v.tracker.lastCycle, ?_, ?_⟩
  · rw [fillEntries_channels, missing_filling]
  · rw [closeCycle_forward]
    change (fillStage .complete v.tracker.lastCycle (filling v)).forward = _
    rw [fillStage_placed (by rw [filling_tables]; exact hm) he hfree]
    change (filling v).forward ++ _ = _
    rw [hfw]
    simp

theorem segmentOver_forward_fill {s u : State} (hf : ForwardSettled s) {g : Segment} {l : List SampleEntry} {q : Queued}
    (hu : u.forward = s.forward ++ [worked g l false true, q]) (hq : q.underway = false) :
    (segmentOver u).forward = s.forward ++ [worked g l false false, q] := by
  change u.forward.map _ = _
  rw [hu, List.map_append, map_settled hf fun q _ hq => by rw [← hq]]
  simp [worked, ← hq]

/-- What the arrival of a segment of the open cycle leaves: its index, and behind a gap a record (R26). -/
structure InCycle (s t : State) (i : Nat) : Prop where
  up : t.upD = s.upD
  tx : t.txD = s.txD
  forward : t.forward = s.forward
  tables : t.tables = s.tables
  tracker : t.tracker = { s.tracker with lastIndex := i }

theorem arrive_inCycle_frame {s : State} (hs : s.tracker.state = .opened) {i : Nat} (hi : s.tracker.lastIndex < i) :
    (arrive s.tracker.lastCycle i s).1 = true ∧ InCycle s (arrive s.tracker.lastCycle i s).2 i := by
  obtain ⟨u, hu, rfl | ⟨b, rfl⟩⟩ := arrive_inCycle hs hi <;> rw [hu] <;> exact ⟨rfl, rfl, rfl, rfl, rfl, rfl⟩

/-- The outgoing entries of a segment of the open cycle, against those it carries (R46 to R50). -/
structure KeptEntries (s : State) (l out : List SampleEntry) : Prop where
  order : (out.map (·.channel)).Sublist (l.map (·.channel))
  checked : ∀ c : Chan, s.checked c = true →
    (out.filter (fun x => x.channel.toNat == c.val)).length =
      if s.tracker.seen[c] = true then 0 else min 1 (l.filter (fun x => x.channel.toNat == c.val)).length
  unchecked : ∀ n : Byte, (∀ c : Chan, c.val = n.toNat → s.checked c = false) →
    out.filter (fun x => x.channel == n) = l.filter (fun x => x.channel == n)

theorem samplesWork_keeps {s a : State} (ho : a.tracker.state = .opened) (htab : a.tables = s.tables)
    (hseen : a.tracker.seen = s.tracker.seen) (l : List SampleEntry) : KeptEntries s l (samplesWork l a).2 := by
  have hchk : ∀ c, a.checked c = s.checked c := State.checked_congr htab
  refine ⟨samplesWork_sublist l a, fun c hc => ?_, fun n hn => samplesWork_unchecked ho l fun c hc => (hchk c).trans (hn c hc)⟩
  rw [← hseen]
  exact samplesWork_checked ho l ((hchk c).trans hc)

/-- The state behind the samples of a segment of the open cycle, before the close that its last flag makes. -/
structure SegmentWorked (s v : State) (g : Segment) (out : List SampleEntry) : Prop where
  forward : v.forward = s.forward ++ [worked g out false true]
  tables : v.tables = s.tables
  tracker : v.tracker = { s.tracker with lastIndex := g.index, seen := carried s.tracker.seen g.entries }

/-- The row of a segment of the open cycle in its two parts: the work on its samples, and behind it the close that its last flag makes
(R26, R27, R41). -/
theorem exec_segment_inCycle {s : State} {g : Segment} {line : List Pattern} {last : Pattern} {r : Receiver}
    (hl : g.entries.length ≤ 48) (hd : Delivers s .u (line ++ [last]) ⟨(Frame.seg g).bytes, false⟩ .endSymbol r)
    (hf : ForwardSettled s) (hp : placesTaken s.forward < 4) (hb : LineBusy s)
    (hs : s.tracker.state = .opened) (hn : g.cycle = s.tracker.lastCycle) (hi : s.tracker.lastIndex < g.index) :
    ∃ (v : State) (out : List SampleEntry), KeptEntries s g.entries out ∧ SegmentWorked s v g out ∧
      LineBusy (segmentOver (if g.segByte.msb = true then closeCycle .complete v else v)) ∧
      exec (.frameReceived .u line last []) s =
        .next (settle (segmentOver (if g.segByte.msb = true then closeCycle .complete v else v))) := by
  obtain ⟨ha, hin⟩ : (arrive g.cycle g.index (placed g r s)).1 = true ∧
      InCycle (placed g r s) (arrive g.cycle g.index (placed g r s)).2 g.index := by
    rw [hn]; exact arrive_inCycle_frame (s := placed g r s) hs hi
  have hrow := exec_segment_busy hl hd hf hp ha hb
  generalize (arrive g.cycle g.index (placed g r s)).2 = a at hin hrow
  obtain ⟨hup, htx, hfw, htab, hk⟩ := hin
  have ho : a.tracker.state = .opened := by rw [hk]; exact hs
  have hbusy := segment_busy g (hb.of_eq hup htx : LineBusy a)
  have hw := samplesFrom_frame g.entries (a, []) ho
  have hkept : KeptEntries s g.entries (samplesWork g.entries a).2 :=
    samplesWork_keeps (s := s) ho htab (by rw [hk]; rfl) g.entries
  rw [← samplesWork_eq] at hw
  generalize samplesWork g.entries a = w at hrow hbusy hw hkept
  exact ⟨showing g w.2 true w.1, w.2, hkept,
    ⟨showing_forward hf g w.2 (hw.forward.trans hfw), hw.tables.trans htab, hw.tracker.trans (by rw [hk]; rfl)⟩, hbusy, hrow⟩

theorem SegmentWorked.missing_eq {s v : State} {g : Segment} {out : List SampleEntry} (h : SegmentWorked s v g out)
    (hn : g.cycle = s.tracker.lastCycle) :
    allChannels.filter (fun c => (s.entry c).mode == .guard && (s.entry c).expected g.cycle &&
      !(carried s.tracker.seen g.entries)[c]) = missing v := by
  rw [missing, h.tracker, ← hn]
  refine List.filter_congr fun c _ => ?_
  rw [isFilled, State.entry_congr h.tables, h.tracker]

/-- The first part of O27: a segment of the open cycle on a busy line. -/
theorem active_segment {s : State} {g : Segment} {line : List Pattern} {last : Pattern} {r : Receiver}
    (hl : g.entries.length ≤ 48) (hd : Delivers s .u (line ++ [last]) ⟨(Frame.seg g).bytes, false⟩ .endSymbol r)
    (hm : s.tables.deviceMode = .active) (hf : ForwardSettled s) (hp : placesTaken s.forward < 4) (hb : LineBusy s)
    (hs : s.tracker.state = .opened) (hn : g.cycle = s.tracker.lastCycle) (hi : s.tracker.lastIndex < g.index) :
    ∃ (t : State) (out : List SampleEntry),
      exec (.frameReceived .u line last []) s = .next t ∧
        (out.map (·.channel)).Sublist (g.entries.map (·.channel)) ∧
        (∀ c : Chan, s.checked c = true →
          (out.filter (fun x => x.channel.toNat == c.val)).length =
            if s.tracker.seen[c] = true then 0 else min 1 (g.entries.filter (fun x => x.channel.toNat == c.val)).length) ∧
        (∀ n : Byte, (∀ c : Chan, c.val = n.toNat → s.checked c = false) →
          out.filter (fun x => x.channel == n) = g.entries.filter (fun x => x.channel == n)) ∧
        (∀ c : Chan, t.tracker.seen[c] = true ↔ s.tracker.seen[c] = true ∨ ∃ x ∈ g.entries, x.channel.toNat = c.val) ∧
        (g.segByte.msb = false →
          t.forward = s.forward ++ [worked g out false false] ∧
          t.tracker = { s.tracker with lastIndex := g.index, seen := t.tracker.seen }) ∧
        (g.segByte.msb = true →
          t.tracker = { s.tracker with lastIndex := g.index, seen := t.tracker.seen, state := .closed,
                                       timer := some s.params.cycleTimeout } ∧
          let missing := allChannels.filter (fun c => (s.entry c).mode == .guard && (s.entry c).expected g.cycle &&
            !t.tracker.seen[c])
          let held := s.forward.any (·.reserved)
          ((missing = [] ∨ held = true) → t.forward = s.forward ++ [worked g out true false]) ∧
          (missing ≠ [] → held = false → ∃ l : List SampleEntry, l.map (·.channel.toNat) = missing.map (·.val) ∧
            t.forward = s.forward ++ [worked g out false false, ⟨.fill g.cycle l, true, true, true, false⟩])) := by
  obtain ⟨v, out, hkept, hv, hbusy, hrow⟩ := exec_segment_inCycle hl hd hf hp hb hs hn hi
  have hset := settle_busyFrame hbusy
  generalize settle (segmentOver (if g.segByte.msb = true then closeCycle .complete v else v)) = t at hrow hset
  have hseen : t.tracker.seen = carried s.tracker.seen g.entries := by
    rw [hset.tracker, segmentOver_tracker]
    cases g.segByte.msb
    · rw [if_neg (by decide), hv.tracker]
    · rw [if_pos rfl, closeCycle_tracker, hv.tracker]
  refine ⟨t, out, hrow, hkept.order, hkept.checked, hkept.unchecked, fun c => ?_, fun hlast => ?_, fun hlast => ?_⟩
  · rw [hseen]; exact carried_get _ _ c
  · simp only [hlast, Bool.false_eq_true, if_false] at hset
    rw [hset.forward, hset.tracker, segmentOver_tracker, hv.tracker]
    exact ⟨segmentOver_forward hf g out hv.forward, rfl⟩
  · simp only [hlast, if_true] at hset
    have hmiss := hv.missing_eq hn
    have hvm : v.tables.deviceMode = .active := by rw [hv.tables]; exact hm
    rw [hset.forward, hset.tracker, segmentOver_tracker, closeCycle_tracker, hv.tracker, State.params_congr hv.tables]
    refine ⟨rfl, fun h => ?_, fun h hr => ?_⟩
    · exact segmentOver_forward hf g out (closeCycle_ends_with_segment hf hv.forward hvm (hmiss ▸ h))
    · obtain ⟨f, hfc, hff⟩ := closeCycle_ends_with_fill hv.forward hvm (hmiss ▸ h) hr
      rw [hv.tracker, ← hn] at hff
      exact ⟨f, hfc.trans (by rw [← hmiss]), segmentOver_forward_fill hf hff rfl⟩

end Sys2Proof.Machine
end

section
/-! ### A RESET DEVICE between two samples (R65, R184) -/

namespace Sys2Proof.Machine

theorem CommandsStand.trans {s t u : State} (h : CommandsStand s t) (h' : CommandsStand t u) : CommandsStand s u :=
  ⟨h'.fifo.trans h.fifo, h'.replies.trans h.replies⟩

theorem sampleWork_commandsStand (x : SampleEntry) (s : State) : CommandsStand s (sampleWork x s).1 := by
  unfold sampleWork
  repeat' split
  · exact ⟨rfl, rfl⟩
  · exact ⟨rfl, rfl⟩
  · exact ⟨rfl, rfl⟩
  · exact ⟨by simp, by simp⟩
  · rw [judge_frame]; exact ⟨rfl, rfl⟩

theorem samplesFrom_commandsStand (l : List SampleEntry) (p : State × List SampleEntry) :
    CommandsStand p.1 (samplesFrom p l).1 := by
  induction l generalizing p with
  | nil => exact ⟨rfl, rfl⟩
  | cons x l ih => exact (sampleWork_commandsStand x p.1).trans (ih ((sampleWork x p.1).1, p.2 ++ (sampleWork x p.1).2.toList))

theorem AtHead.stand {s t : State} {c : Command} {rest : List Command} {code : Byte} (h : AtHead s c rest code)
    (hs : CommandsStand s t) : AtHead t c rest code :=
  ⟨hs.fifo.trans h.head, h.code, by rw [hs.replies]; exact h.room⟩

/-- The state a RESET DEVICE command leaves, its reply placed (R172, R184). -/
def afterReset (c : Command) (rest : List Command) (s : State) : State :=
  placeReply c .ok (.scope .device) (resetDeviceOp (taken s rest))

section
variable {s : State} {c : Command} {rest : List Command} (hh : AtHead s c rest 0x60) (ha : c.args = [2])
include hh ha

theorem exec_resetDevice : exec .resetDevice s = .next (settle (afterReset c rest s)) := by
  have hi : isReset .device c = true := by simp [isReset, hh.code, ha, scopeOf]
  exact takeHead_of (a := ⟨resetDeviceOp (taken s rest), .ok, .scope .device⟩) hh hi (by rw [ha]; rfl)

theorem happen_resetDevice : happen [.executorTakes] s = settle (afterReset c rest s) := by
  have h : executorTakes s = takeHead (fun _ => true) runReset s := by
    rw [executorTakes, hh.head]
    dsimp only
    rw [hh.code]
    rfl
  have ht : act (takeHead (fun _ => true) runReset s) = act (afterReset c rest s) :=
    takeHead_of (a := ⟨resetDeviceOp (taken s rest), .ok, .scope .device⟩) hh rfl (by rw [ha]; rfl)
  rw [← betweenActs_eq_happen]
  change settle (executorTakes s) = _
  rw [h]
  exact Host.Outcome.next.inj ht

end

theorem afterReset_forward (c : Command) (rest : List Command) (s : State) :
    (afterReset c rest s).forward = s.forward.map (fun q => { q with complete := true, ending := false }) := by
  unfold afterReset placeReply; split <;> rfl

theorem afterReset_tracker (c : Command) (rest : List Command) (s : State) : (afterReset c rest s).tracker = .powerOn := by
  unfold afterReset placeReply; split <;> rfl

theorem afterReset_log (c : Command) (rest : List Command) (s : State) : (afterReset c rest s).log = .powerOn := by
  unfold afterReset placeReply; split <;> rfl

theorem afterReset_channels (c : Command) (rest : List Command) (s : State) :
    (afterReset c rest s).channels = Vector.replicate 96 (.fresh .idle) := by
  unfold afterReset placeReply; split <;> rfl

theorem afterReset_sends (c : Command) (rest : List Command) (s : State) : SendsAs s (afterReset c rest s) := by
  unfold afterReset placeReply; split <;> exact ⟨rfl, rfl, rfl⟩

theorem afterReset_busy (c : Command) (rest : List Command) {s : State} (hb : LineBusy s) : LineBusy (afterReset c rest s) := by
  refine hb.of_eq ?_ ?_ <;> unfold afterReset placeReply <;> split <;> rfl

/-- What a RESET DEVICE leaves, and the segment's end behind it: every frame complete, unmarked and no longer under way (R184). -/
theorem settle_afterReset (c : Command) (rest : List Command) {s : State} (hb : LineBusy s) :
    (segmentOver (settle (afterReset c rest s))).forward = s.forward.map (fun q => ⟨q.frame, q.reserved, true, false, false⟩) ∧
      (settle (afterReset c rest s)).tracker = .powerOn ∧ (settle (afterReset c rest s)).log = .powerOn ∧
      ∀ k : Chan, (settle (afterReset c rest s)).channel k = .fresh .idle := by
  have hset := settle_busyFrame (afterReset_busy c rest hb)
  refine ⟨?_, hset.tracker.trans (afterReset_tracker ..), ?_, fun k => ?_⟩
  · have hfw := hset.forward.trans (afterReset_forward c rest s)
    rw [segmentOver, hfw, List.map_map]
    rfl
  · rw [settle_log, afterReset_log]
  · rw [State.channel, hset.channels, afterReset_channels]
    simp

/-- A reset reads of the Forward Queue and of port U's transmit side only what it keeps of them (R184). -/
theorem afterReset_requeue (c : Command) (rest : List Command) (s : State) (fw : List Queued) (tx : Option (List Byte))
    (rt : List (List Byte)) :
    afterReset c rest (s.requeue fw tx rt) =
      (afterReset c rest s).requeue (fw.map (fun q => { q with complete := true, ending := false })) tx rt := by
  unfold afterReset placeReply; split <;> rfl

/-- A reset leaves every frame of the queue complete, so that it matters not whether the SEG under way was (R65, R184). -/
theorem reshown_completed (g : Segment) (l : List SampleEntry) (finished : Bool) (s : State) :
    (reshown g l finished s).forward.map (fun q => { q with complete := true, ending := false }) =
      (showing g l false s).forward.map (fun q => { q with complete := true, ending := false }) := by
  refine (List.map_map ..).trans ((List.map_congr_left fun q _ => ?_).trans (List.map_map ..).symm)
  cases hu : q.underway <;> simp [hu]

/-- A part that a RESET DEVICE has left in the middle of a segment: no cycle is open, the queue is complete and the line settled. -/
structure GivenUp (g : Segment) (l : List SampleEntry) (s : State) : Prop where
  state : s.tracker.state ≠ .opened
  shown : ∀ q ∈ s.forward, q.underway = true → q.frame = .seg { g with entries := l }
  complete : ∀ q ∈ s.forward, q.complete = true
  settled : settle s = s

/-- Nothing is left to do on the samples behind a RESET DEVICE: they pass unaltered (R65). -/
theorem GivenUp.segmentWork {g : Segment} (out left : List SampleEntry) {s : State} (h : GivenUp g (out ++ left) s) :
    segmentWork g out left [] s = s := by
  induction left generalizing out with
  | nil => rfl
  | cons x rest ih =>
    have hwork : sampleWork x s = (s, some x) := by rw [sampleWork, if_pos h.state]
    have hlist : out ++ (some x).toList ++ rest = out ++ x :: rest := by simp
    have hshow : reshown g (out ++ x :: rest) rest.isEmpty s = s := by
      have hsh : Shows g (out ++ x :: rest) s :=
        ⟨h.shown, fun _ _ _ ho => absurd ho h.state, fun q hq _ => h.complete q hq⟩
      have hid : completeFrames s = s := by
        have : s.forward.map (fun q => { q with complete := true }) = s.forward :=
          (List.map_congr_left fun q hq => by rw [← h.complete q hq]; rfl).trans (List.map_id _)
        rw [completeFrames, this]
      rw [← hsh.finish, hid, ite_self]
    rw [Machine.segmentWork]
    change Machine.segmentWork g (out ++ (sampleWork x s).2.toList) rest [] (settle (reshown g
      (out ++ (sampleWork x s).2.toList ++ rest) rest.isEmpty (sampleWork x s).1)) = s
    rw [hwork]
    dsimp only
    rw [hlist, hshow, h.settled]
    exact ih (out ++ (some x).toList) (by rw [hlist]; exact h)

theorem GivenUp.behind {g : Segment} (out back : List SampleEntry) {s u : State} (h : GivenUp g (out ++ back) u)
    (hu : happen [.executorTakes] s = u) : Machine.segmentWork g out back [[.executorTakes]] s = u := by
  cases back with
  | nil => exact hu
  | cons x rest =>
    have hstep : Machine.segmentWork g out (x :: rest) [[.executorTakes]] s =
        Machine.segmentWork g out (x :: rest) [] (happen [.executorTakes] s) := rfl
    rw [hstep, hu]
    exact h.segmentWork out (x :: rest)

/-- The state that a RESET DEVICE leaves a segment's work in. -/
theorem givenUp_afterReset (g : Segment) (l : List SampleEntry) (c : Command) (rest : List Command) {s : State} (hb : LineBusy s) :
    GivenUp g l (settle (afterReset c rest (showing g l false s))) := by
  have hbusy := afterReset_busy c rest (hb.of_eq rfl rfl : LineBusy (showing g l false s))
  have hfw : (settle (afterReset c rest (showing g l false s))).forward =
      (showing g l false s).forward.map (fun q => { q with complete := true, ending := false }) :=
    (settle_busyFrame hbusy).forward.trans (afterReset_forward ..)
  refine ⟨?_, fun q hq hu => ?_, fun q hq => ?_, settle_settle hbusy⟩
  · rw [settle_tracker, afterReset_tracker]; decide
  · rw [hfw] at hq
    obtain ⟨q', hq', rfl⟩ := List.mem_map.mp hq
    obtain ⟨q'', -, rfl⟩ := List.mem_map.mp hq'
    cases hu'' : q''.underway
    · simp [hu''] at hu
    · simp
  · rw [hfw] at hq
    obtain ⟨q', -, rfl⟩ := List.mem_map.mp hq
    rfl

/-- Behind a segment's end a settled busy line stays settled. -/
theorem settle_segmentOver_settle {s : State} (hb : LineBusy s) : settle (segmentOver (settle s)) = segmentOver (settle s) := by
  rw [settle_segmentOver_busy hb, settle_eq_requeue (s := s) hb ⟨rfl, rfl, rfl⟩, segmentOver_requeue,
    settle_eq_requeue (s := s) (segmentOver_busy hb) (segmentOver_sends s)]

/-- The row of a processed SEG between whose samples a RESET DEVICE is taken: the reset at that point, and nothing more (R65, R184). -/
theorem exec_segment_reset {s : State} {g : Segment} {line : List Pattern} {last : Pattern} {r : Receiver}
    {front back : List SampleEntry} {c : Command} {rest : List Command} (hg : g.entries = front ++ back)
    (hl : g.entries.length ≤ 48) (hd : Delivers s .u (line ++ [last]) ⟨(Frame.seg g).bytes, false⟩ .endSymbol r)
    (hf : ForwardSettled s) (hp : placesTaken s.forward < 4) (hb : LineBusy s) (hh : AtHead s c rest 0x60) (hc : c.args = [2])
    (ha : (arrive g.cycle g.index (placed g r s)).1 = true) :
    let w := samplesWork front (arrive g.cycle g.index (placed g r s)).2
    let v := showing g (w.2 ++ back) false w.1
    exec .resetDevice v = .next (settle (afterReset c rest v)) ∧
      exec (.frameReceived .u line last (List.replicate front.length [] ++ [[.executorTakes]])) s =
        .next (segmentOver (settle (afterReset c rest v))) := by
  have hfr := arrive_frame ha
  have hrow := exec_segment hl hd hf hp ha (List.replicate front.length [] ++ [[.executorTakes]])
  generalize (arrive g.cycle g.index (placed g r s)).2 = a at hfr hrow
  have hba : LineBusy a := hb.of_eq hfr.up hfr.tx
  have hfront := segmentWork_front_busy g [] front back [[.executorTakes]] hba
  rw [List.nil_append, ← hg, ← samplesWork_eq] at hfront
  have hbw : LineBusy (samplesWork front a).1 := samplesFrom_busy front (p := (a, [])) hba
  have hhw : AtHead (samplesWork front a).1 c rest 0x60 :=
    (hh.stand (⟨rfl, rfl⟩ : CommandsStand s (placed g r s))).stand
      (hfr.toCommandsStand.trans (samplesFrom_commandsStand front (a, [])))
  generalize samplesWork front a = w at hfront hbw hhw
  have hv : LineBusy (showing g (w.2 ++ back) false w.1) := hbw.of_eq rfl rfl
  have hR : LineBusy (reshown g (w.2 ++ back) back.isEmpty w.1) := hbw.of_eq rfl rfl
  have hS : AtHead (settle (reshown g (w.2 ++ back) back.isEmpty w.1)) c rest 0x60 := by
    rw [settle_eq_requeue (s := w.1) hR ⟨rfl, rfl, rfl⟩]
    exact hhw.stand ⟨rfl, rfl⟩
  have hreset : happen [.executorTakes] (settle (reshown g (w.2 ++ back) back.isEmpty w.1)) =
      settle (afterReset c rest (showing g (w.2 ++ back) false w.1)) := by
    have hshow : (reshown g (w.2 ++ back) back.isEmpty w.1).requeue (reshown g (w.2 ++ back) back.isEmpty w.1).forward
        (returnSend w.1).txU (returnSend w.1).ret = (showing g (w.2 ++ back) false w.1).requeue
          (reshown g (w.2 ++ back) back.isEmpty w.1).forward (returnSend w.1).txU (returnSend w.1).ret := rfl
    rw [happen_resetDevice hS hc, settle_eq_requeue (s := w.1) hR ⟨rfl, rfl, rfl⟩, hshow, afterReset_requeue, reshown_completed,
      ← afterReset_forward c rest]
    exact settle_requeue (s := w.1) (afterReset_busy c rest hv)
      ((⟨rfl, rfl, rfl⟩ : SendsAs w.1 (showing g (w.2 ++ back) false w.1)).trans
        (afterReset_sends c rest (showing g (w.2 ++ back) false w.1)))
  have hup := givenUp_afterReset g (w.2 ++ back) c rest hbw
  have hwork := hfront.trans (hup.behind w.2 back hreset)
  refine ⟨exec_resetDevice (hhw.stand ⟨rfl, rfl⟩) hc, ?_⟩
  rw [hrow, hwork, if_neg fun h => hup.state h.2, settle_segmentOver_settle (afterReset_busy c rest hv)]

/-- Settles O27: a segment of the open cycle, and a RESET DEVICE between two samples. -/
theorem activeSegmentKeepsOneEntryPerCheckedChannel : Obligations.ActiveSegmentKeepsOneEntryPerCheckedChannel := by
  unfold Obligations.ActiveSegmentKeepsOneEntryPerCheckedChannel
  refine ⟨fun s g line last r hl hd hm hf hp hb hs hn hi => active_segment hl hd hm hf hp hb hs hn hi, ?_⟩
  intro s g line last r front back c rest hg hl hd hf hp hb hh hc a w v ha
  obtain ⟨hreset, hrow⟩ := exec_segment_reset hg hl hd hf hp hb hh hc ha
  have hv : LineBusy v := (samplesFrom_busy front (p := (a.2, []))
    (hb.of_eq (arrive_frame ha).up (arrive_frame ha).tx)).of_eq rfl rfl
  obtain ⟨hforward, htracker, hlog, hchannels⟩ := settle_afterReset c rest hv
  exact ⟨_, hreset, hrow, hforward, htracker, hlog, hchannels⟩

end Sys2Proof.Machine
end

section
/-! ### The Checker's outcome of a sample (R52 to R58, R63) -/

namespace Sys2Proof.Machine

/-! #### Conditioning (R55) -/

/-- The saturated value lies in the range of a sample, so that its 24 bits hold it whole (R1). -/
theorem saturateSample_toInt (x : Int) : (saturateSample x).toInt = max (-8388608) (min 8388607 x) := by
  rw [saturateSample, BitVec.toInt_ofInt]
  exact Int.bmod_eq_of_le (by omega) (by omega)

theorem roundGain_natCast (n : Nat) : roundGain n = ((n + 8192) / 16384 : Nat) := by
  rcases Nat.eq_zero_or_pos n with rfl | hn
  · rfl
  · rw [roundGain, Int.sign_natCast_of_ne_zero hn.ne', Int.natAbs_natCast, one_mul]

theorem roundGain_neg (x : Int) : roundGain (-x) = -roundGain x := by
  simp only [roundGain, Int.sign_neg, Int.natAbs_neg, neg_mul]

/-- The rounded gain lies within half a unit of x / 16384, and at a tie it is the farther of the two from zero (R55). -/
theorem roundGain_nearest (x : Int) :
    2 * (16384 * roundGain x - x).natAbs ≤ 16384 ∧
      (2 * (16384 * roundGain x - x).natAbs = 16384 → x.natAbs < (16384 * roundGain x).natAbs) ∧
      (2 * (16384 * roundGain x - x).natAbs = 16384 ↔ x % 16384 = 8192) := by
  obtain ⟨n, rfl | rfl⟩ := Int.eq_nat_or_neg x
  · rw [roundGain_natCast]; omega
  · rw [roundGain_neg, roundGain_natCast]; omega

/-! #### The two forms of an outcome (R54, R63) -/

/-- A sample that raises QUAL has no other class and is not conditioned (R54). -/
theorem checkOutcome_of_raisesQual {e : ChannelEntry} {x : SampleEntry} (h : raisesQual e (readQuality x.quality) = true)
    (base : Option Sample) : checkOutcome e base x = ⟨.qualOnly, x.value, readQuality x.quality, none⟩ := by
  simp [checkOutcome, h]

/-- Any other sample is conditioned, and the three value checks give its classes (R55 to R58). -/
theorem checkOutcome_of_not_raisesQual {e : ChannelEntry} {x : SampleEntry} (h : raisesQual e (readQuality x.quality) = false)
    (base : Option Sample) :
    checkOutcome e base x =
      ⟨.ofChecks (raisesHigh e (conditioned e x.value)) (raisesLow e (conditioned e x.value))
          (raisesRate e base (conditioned e x.value)),
        x.value, readQuality x.quality, some (conditioned e x.value)⟩ := by
  simp [checkOutcome, h]

/-- The classes of a sample that has a conditioned value are those of the three checks of that value (R57, R58). -/
theorem checkOutcome_classes {e : ChannelEntry} {base : Option Sample} {x : SampleEntry} {v : Sample}
    (h : (checkOutcome e base x).conditioned = some v) :
    (checkOutcome e base x).classes = .ofChecks (raisesHigh e v) (raisesLow e v) (raisesRate e base v) := by
  cases hq : raisesQual e (readQuality x.quality) with
  | true => rw [checkOutcome_of_raisesQual hq] at h; cases h
  | false =>
    rw [checkOutcome_of_not_raisesQual hq] at h ⊢
    cases h
    rfl

@[simp] theorem checkOutcome_received (e : ChannelEntry) (base : Option Sample) (x : SampleEntry) :
    (checkOutcome e base x).received = x.value := by
  unfold checkOutcome; dsimp only; split <;> rfl

@[simp] theorem checkOutcome_quality (e : ChannelEntry) (base : Option Sample) (x : SampleEntry) :
    (checkOutcome e base x).quality = readQuality x.quality := by
  unfold checkOutcome; dsimp only; split <;> rfl

/-- QUAL is in the set of an outcome exactly where the quality raises it (R53, R54). -/
theorem checkOutcome_qual (e : ChannelEntry) (base : Option Sample) (x : SampleEntry) :
    (checkOutcome e base x).classes.qual = raisesQual e (readQuality x.quality) := by
  cases hq : raisesQual e (readQuality x.quality) with
  | true => rw [checkOutcome_of_raisesQual hq]; rfl
  | false => rw [checkOutcome_of_not_raisesQual hq]; rfl

/-- No sample raises STALE or WARN (R63). -/
theorem checkOutcome_stale_warn (e : ChannelEntry) (base : Option Sample) (x : SampleEntry) :
    (checkOutcome e base x).classes.stale = false ∧ (checkOutcome e base x).classes.warn = false := by
  cases hq : raisesQual e (readQuality x.quality) with
  | true => rw [checkOutcome_of_raisesQual hq]; exact ⟨rfl, rfl⟩
  | false => rw [checkOutcome_of_not_raisesQual hq]; exact ⟨rfl, rfl⟩

/-! #### The checks, each by its conditions (R53, R57, R58) -/

/-- The table of R53 over the codes as carried: OK never raises QUAL, SAT by sat_is_fault, and every other code does. -/
theorem raisesQual_iff (e : ChannelEntry) (q : Byte) :
    raisesQual e (readQuality q) = true ↔ e.classes.qual = true ∧ q ≠ 0 ∧ (q = 1 → e.satIsFault = true) := by
  by_cases h0 : q = 0
  · subst h0; simp [raisesQual, readQuality]
  · by_cases h1 : q = 1
    · subst h1; simp [raisesQual, readQuality]
    · by_cases h3 : q = 3
      · subst h3; simp [raisesQual, readQuality]
      · have hbad : readQuality q = .bad := by rw [readQuality, if_neg h0, if_neg h1, if_neg h3]
        rw [and_iff_left (⟨h0, fun h => absurd h h1⟩ : q ≠ 0 ∧ (q = 1 → e.satIsFault = true))]
        simp [raisesQual, hbad]

theorem raisesHigh_iff (e : ChannelEntry) (v : Sample) :
    raisesHigh e v = true ↔ e.classes.high = true ∧ e.highLimit.toInt < v.toInt := by
  simp [raisesHigh]

theorem raisesLow_iff (e : ChannelEntry) (v : Sample) :
    raisesLow e v = true ↔ e.classes.low = true ∧ v.toInt < e.lowLimit.toInt := by
  simp [raisesLow]

theorem raisesRate_iff (e : ChannelEntry) (base : Option Sample) (v : Sample) :
    raisesRate e base v = true ↔
      e.classes.rate = true ∧ 0 < e.rateLimit ∧ ∃ b, base = some b ∧ e.rateLimit < (v.toInt - b.toInt).natAbs := by
  cases base with
  | none => simp [raisesRate]
  | some b => simp [raisesRate, and_assoc]

/-! #### The statements -/

/-- Settles O9: the rounding is the nearest, and the saturation is that of the sum. -/
theorem conditioningIsExact : Obligations.ConditioningIsExact := by
  unfold Obligations.ConditioningIsExact
  intro e base x
  refine ⟨fun h => by rw [checkOutcome_of_raisesQual h], fun h => ?_⟩
  obtain ⟨hnear, htie, hhalf⟩ := roundGain_nearest (x.value.toInt * e.gain.toInt)
  exact ⟨roundGain (x.value.toInt * e.gain.toInt), conditioned e x.value, hnear, htie, hhalf, saturateSample_toInt _,
    by rw [checkOutcome_of_not_raisesQual h]⟩

/-- Settles O10. -/
theorem rateRaisedExactlyWhen : Obligations.RateRaisedExactlyWhen := by
  unfold Obligations.RateRaisedExactlyWhen
  intro e base x v hv
  rw [checkOutcome_classes hv]
  exact raisesRate_iff e base v

/-- Settles O11; HIGH and LOW exclude each other where the limits stand in order. -/
theorem qualityAndLimitsDecideTheClasses : Obligations.QualityAndLimitsDecideTheClasses := by
  unfold Obligations.QualityAndLimitsDecideTheClasses
  intro e base x
  obtain ⟨hstale, hwarn⟩ := checkOutcome_stale_warn e base x
  refine ⟨checkOutcome_quality e base x, hstale, hwarn, ?_, fun h => ?_, fun v hv => ?_⟩
  · rw [checkOutcome_qual, raisesQual_iff]
  · rw [checkOutcome_qual] at h
    rw [checkOutcome_of_raisesQual h]
  · rw [checkOutcome_classes hv]
    refine ⟨raisesHigh_iff e v, raisesLow_iff e v, fun hlim ⟨hhigh, hlow⟩ => ?_⟩
    have above := ((raisesHigh_iff e v).mp hhigh).2
    have below := ((raisesLow_iff e v).mp hlow).2
    omega

end Sys2Proof.Machine
end

section
/-! ### The work on one sample, case by case (R45 to R49, R64) -/

namespace Sys2Proof.Machine

theorem tableChannel_beyond {b : Byte} (h : 96 ≤ b.toNat) : tableChannel b = none := by
  simp [tableChannel, Nat.not_lt.mpr h]

theorem tableChannel_of_val {b : Byte} {c : Chan} (h : c.val = b.toNat) : tableChannel b = some c := by
  simp [tableChannel, ← h, c.isLt]

section
variable {x : SampleEntry} {s : State} {c : Chan}

theorem sampleWork_beyond (ho : s.tracker.state = .opened) (h : 96 ≤ x.channel.toNat) : sampleWork x s = (s, some x) := by
  simp [sampleWork, ho, tableChannel_beyond h]

theorem sampleWork_unchecked (ho : s.tracker.state = .opened) (hx : c.val = x.channel.toNat) (hc : s.checked c = false) :
    sampleWork x s = (s.markSeen c, some x) := by
  simp [sampleWork, ho, tableChannel_of_val hx, hc]

theorem sampleWork_duplicate (ho : s.tracker.state = .opened) (hx : c.val = x.channel.toNat) (hc : s.checked c = true)
    (hs : s.tracker.seen[c] = true) : sampleWork x s = (noteDuplicate c s, none) := by
  rw [Fin.getElem_fin] at hs
  simp [sampleWork, ho, tableChannel_of_val hx, hc, hs]

theorem sampleWork_judged (ho : s.tracker.state = .opened) (hx : c.val = x.channel.toNat) (hc : s.checked c = true)
    (hs : s.tracker.seen[c] = false) :
    sampleWork x s = ((judge c x (s.markSeen c)).1, some (judge c x (s.markSeen c)).2) := by
  rw [Fin.getElem_fin] at hs
  simp [sampleWork, ho, tableChannel_of_val hx, hc, hs]

/-- In an open cycle the records of the tracker's present cycle carry last_cycle (R142). -/
theorem State.stamp_opened (ho : s.tracker.state = .opened) : s.stamp = some s.tracker.lastCycle :=
  State.stamp_synced (by simp [ho])

end

/-- Settles O32, by the three cases in which a sample is not judged. -/
theorem unjudgedSamplesChangeNoRecord : Obligations.UnjudgedSamplesChangeNoRecord := by
  unfold Obligations.UnjudgedSamplesChangeNoRecord
  intro x s ho
  refine ⟨sampleWork_beyond ho, fun c hx => ⟨sampleWork_unchecked ho hx, fun hc hs => ?_⟩⟩
  rw [sampleWork_duplicate ho hx hc hs, noteDuplicate, State.stamp_opened ho]

end Sys2Proof.Machine
end

section
/-! ### A judged sample: what the Checker notes, what is emitted, and last_good (R59 to R64, R78, R86 to R93) -/

namespace Sys2Proof.Machine

theorem State.setChannel_self (s : State) (c : Chan) : s.setChannel c (s.channel c) = s := by
  simp [State.setChannel, State.channel]

/-! #### Baseline and warning (R59, R61, R62) -/

theorem outsideWindow_eq (e : ChannelEntry) (v : Sample) :
    outsideWindow e v = (decide (v.toInt < e.warnLow.toInt) || decide (e.warnHigh.toInt < v.toInt)) := by
  simp only [outsideWindow, Bool.not_and, ← decide_not, Int.not_le]

/-- The runtime record after the Checker has noted an outcome (R59, R61). -/
def notedRecord (e : ChannelEntry) (o : CheckOutcome) (r : ChannelRecord) : ChannelRecord :=
  match o.faultFree with
  | none => r
  | some v => r.checkedValue e v

theorem notedRecord_unconditioned {o : CheckOutcome} (h : o.conditioned = none) (e : ChannelEntry) (r : ChannelRecord) :
    notedRecord e o r = r := by
  simp [notedRecord, CheckOutcome.faultFree, h]

theorem notedRecord_faulty {o : CheckOutcome} (h : o.classes ≠ .none) (e : ChannelEntry) (r : ChannelRecord) :
    notedRecord e o r = r := by
  simp [notedRecord, CheckOutcome.faultFree, ClassSet.isEmpty_iff, h]

theorem notedRecord_faultFree {o : CheckOutcome} {v : Sample} (hv : o.conditioned = some v) (h : o.classes = .none)
    (e : ChannelEntry) (r : ChannelRecord) :
    notedRecord e o r =
      { r with rateBase := some v
               inWarn := e.classes.warn && (decide (v.toInt < e.warnLow.toInt) || decide (e.warnHigh.toInt < v.toInt)) } := by
  simp [notedRecord, CheckOutcome.faultFree, ClassSet.isEmpty_iff, h, hv, ChannelRecord.checkedValue, outsideWindow_eq]

theorem notedRecord_lastGood (e : ChannelEntry) (o : CheckOutcome) (r : ChannelRecord) :
    (notedRecord e o r).lastGood = r.lastGood := by
  unfold notedRecord; split <;> rfl

/-- The Checker writes its channel's record, and submits WARN exactly where in_warn changes from no to yes (R59, R61, R62). -/
theorem noteValue_eq (c : Chan) (o : CheckOutcome) (s : State) :
    noteValue c o s =
      if (notedRecord (s.entry c) o (s.channel c)).inWarn && !(s.channel c).inWarn then
        submit s.stamp (.warn c o.reported) (s.setChannel c (notedRecord (s.entry c) o (s.channel c)))
      else s.setChannel c (notedRecord (s.entry c) o (s.channel c)) := by
  unfold noteValue notedRecord
  cases hf : o.faultFree with
  | none => simp [State.setChannel_self]
  | some v =>
    have hv : o.reported = v := by
      unfold CheckOutcome.faultFree at hf
      split at hf
      · simp [CheckOutcome.reported, hf]
      · cases hf
    simp only [hv]

theorem noteValue_channel (c : Chan) (o : CheckOutcome) (s : State) :
    (noteValue c o s).channel c = notedRecord (s.entry c) o (s.channel c) := by
  rw [noteValue_eq]
  split
  · rw [submit_channel, State.setChannel_channel, if_pos rfl]
  · rw [State.setChannel_channel, if_pos rfl]

/-! #### The rows of the table (R88, R93) -/

section
variable {s : State} {e : ChannelEntry} {r : ChannelRecord} {o : CheckOutcome}

theorem guardChoice_tripped (h : groupTripped s e = true) : guardChoice s e r o = (e.safeValue, .subst) := by
  simp [guardChoice, h]

theorem guardChoice_faulted (h : groupTripped s e = false) (hf : r.state = .faulted) :
    (e.reaction = .safe → guardChoice s e r o = (e.safeValue, .subst)) ∧
      (e.reaction = .hold → guardChoice s e r o = (heldValue e r, .subst)) ∧
      (e.reaction = .mark → guardChoice s e r o = (o.reported, .bad)) := by
  refine ⟨fun hr => ?_, fun hr => ?_, fun hr => ?_⟩ <;> simp [guardChoice, h, hf, hr]

theorem guardChoice_suspect (h : groupTripped s e = false) (hf : r.state ≠ .faulted) (hk : o.classes ≠ .none)
    (hs : e.holdSuspect = true) : guardChoice s e r o = (heldValue e r, .subst) := by
  have hk' : o.classes.isEmpty = false := Bool.eq_false_iff.mpr (mt (ClassSet.isEmpty_iff _).mp hk)
  simp [guardChoice, h, hf, hk', hs]

/-- Row 6 is what is left when rows 1 to 5 do not apply (R88). -/
theorem guardUnaltered_iff : guardUnaltered s e r o = true ↔
    groupTripped s e = false ∧ r.state ≠ .faulted ∧ (o.classes = .none ∨ e.holdSuspect = false) := by
  simp [guardUnaltered, ← ClassSet.isEmpty_iff, and_assoc]

theorem guardChoice_unaltered (h : guardUnaltered s e r o = true) : guardChoice s e r o = unaltered o := by
  obtain ⟨ht, hf, hk⟩ := guardUnaltered_iff.mp h
  have hk' : (!o.classes.isEmpty && e.holdSuspect) = false := by
    rcases hk with hk | hk
    · simp [(ClassSet.isEmpty_iff _).mpr hk]
    · simp [hk]
  simp [guardChoice, ht, hf, hk']

end

/-! #### last_good (R78) -/

/-- The sample is emitted unaltered while its channel is not FAULTED (R78). -/
def emittedGood (s : State) (c : Chan) (o : CheckOutcome) : Bool :=
  (s.channel c).state != .faulted && ((s.entry c).mode != .guard || guardUnaltered s (s.entry c) (s.channel c) o)

/-- What last_good is after a sample is emitted (R78). -/
def lastGoodAfter (s : State) (c : Chan) (o : CheckOutcome) : Option Sample :=
  if emittedGood s c o then o.conditioned.or (s.channel c).lastGood else (s.channel c).lastGood

theorem updateLastGood_eq (c : Chan) (o : CheckOutcome) (s : State) :
    updateLastGood c o s = s.setChannel c { s.channel c with lastGood := lastGoodAfter s c o } := by
  have hsame : s.setChannel c { s.channel c with lastGood := (s.channel c).lastGood } = s := State.setChannel_self s c
  unfold updateLastGood lastGoodAfter
  cases o.conditioned with
  | none => simp [hsame]
  | some v =>
    change (if emittedGood s c o = true then _ else _) = _
    cases emittedGood s c o <;> simp [hsame]

theorem updateLastGood_channel (c : Chan) (o : CheckOutcome) (s : State) :
    (updateLastGood c o s).channel c = { s.channel c with lastGood := lastGoodAfter s c o } := by
  rw [updateLastGood_eq, State.setChannel_channel, if_pos rfl]

theorem lastGoodAfter_guard {s : State} {c : Chan} (hm : (s.entry c).mode = .guard) (o : CheckOutcome) :
    lastGoodAfter s c o =
      if guardUnaltered s (s.entry c) (s.channel c) o = true then o.conditioned.or (s.channel c).lastGood
      else (s.channel c).lastGood := by
  have h : emittedGood s c o = guardUnaltered s (s.entry c) (s.channel c) o := by
    cases hf : (s.channel c).state <;> simp [emittedGood, guardUnaltered, hm, hf]
  rw [lastGoodAfter, h]

theorem lastGoodAfter_monitor {s : State} {c : Chan} (hm : (s.entry c).mode = .monitor) (o : CheckOutcome) :
    lastGoodAfter s c o =
      if (s.channel c).state = .faulted then (s.channel c).lastGood else o.conditioned.or (s.channel c).lastGood := by
  by_cases hf : (s.channel c).state = .faulted <;> simp [lastGoodAfter, emittedGood, hm, hf]

/-! #### The whole of a judged sample -/

/-- The state in which a judged sample's entry is chosen: the Checker's notes made and the one evaluation taken (R64). -/
def afterEvaluation (c : Chan) (o : CheckOutcome) (s : State) : State :=
  evaluate c s.tracker.lastCycle o.classes (some o.reported) (noteValue c o s)

theorem judge_eq (c : Chan) (x : SampleEntry) (s : State) :
    judge c x s =
      let o := checkOutcome (s.entry c) (s.channel c).rateBase x
      let u := afterEvaluation c o s
      (updateLastGood c o u, { x with value := (choice u c o).1, quality := (choice u c o).2.code }) := rfl

/-- The notes and the evaluation of a sample of an open cycle, written from the noted record (R59, R62, R64, R69). -/
theorem afterEvaluation_opened {s : State} {c : Chan} {o : CheckOutcome} {r : ChannelRecord} (ho : s.tracker.state = .opened)
    (hr : notedRecord (s.entry c) o (s.channel c) = r) :
    afterEvaluation c o s = evaluate c s.tracker.lastCycle o.classes (some o.reported)
      (if r.inWarn && !(s.channel c).inWarn then submit (some s.tracker.lastCycle) (.warn c o.reported) (s.setChannel c r)
       else s.setChannel c r) := by
  rw [afterEvaluation, noteValue_eq, State.stamp_opened ho, hr]

theorem afterEvaluation_entry (c : Chan) (o : CheckOutcome) (s : State) : (afterEvaluation c o s).entry c = s.entry c :=
  State.entry_congr (by simp [afterEvaluation]) c

/-- Neither the Checker nor the evaluation writes last_good (R77). -/
theorem afterEvaluation_lastGood (c : Chan) (o : CheckOutcome) (s : State) :
    ((afterEvaluation c o s).channel c).lastGood = (s.channel c).lastGood := by
  rw [afterEvaluation, evaluate_channel, if_pos rfl, (evaluatedRecord_values ..).1, noteValue_channel, notedRecord_lastGood]

/-- The entry and last_good of a sample by R88, R93 and R78, from the state its evaluation leaves. -/
theorem emission_by_the_table (u : State) (c : Chan) (o : CheckOutcome) :
    let e := u.entry c
    let r := u.channel c
    let y := ((choice u c o).1, (choice u c o).2.code)
    let forced := ∃ g : Grp, e.group = some g ∧ (u.group g).state = .tripped
    let follows := o.conditioned.or r.lastGood
    (e.mode = .guard → forced → y = (e.safeValue, 3) ∧ lastGoodAfter u c o = r.lastGood) ∧
    (e.mode = .guard → ¬ forced → r.state = .faulted →
      lastGoodAfter u c o = r.lastGood ∧
      (e.reaction = .safe → y = (e.safeValue, 3)) ∧
      (e.reaction = .hold → y = (heldValue e r, 3)) ∧
      (e.reaction = .mark → y = (o.reported, 2))) ∧
    (e.mode = .guard → ¬ forced → r.state ≠ .faulted → o.classes ≠ .none → e.holdSuspect = true →
      y = (heldValue e r, 3) ∧ lastGoodAfter u c o = r.lastGood) ∧
    (e.mode = .guard → ¬ forced → r.state ≠ .faulted → (o.classes = .none ∨ e.holdSuspect = false) →
      y = (o.reported, o.quality.code) ∧ lastGoodAfter u c o = follows) ∧
    (e.mode = .monitor → y = (o.reported, o.quality.code) ∧
      lastGoodAfter u c o = if r.state = .faulted then r.lastGood else follows) := by
  intro e r y forced follows
  have hchoice : e.mode = .guard → choice u c o = guardChoice u e r o := fun hm => if_pos hm
  have hkept : e.mode = .guard → guardUnaltered u e r o ≠ true → lastGoodAfter u c o = r.lastGood := fun hm hn => by
    rw [lastGoodAfter_guard hm, if_neg hn]
  have hy {a : Sample} {q : Quality} (h : choice u c o = (a, q)) : y = (a, q.code) := by simp only [y, h]
  have hfree : ¬ forced → groupTripped u e = false := fun h => Bool.eq_false_iff.mpr (mt (groupTripped_iff u e).mp h)
  refine ⟨fun hm hg => ?_, fun hm hg hf => ?_, fun hm hg hf hk hs => ?_, fun hm hg hf hk => ?_, fun hm => ?_⟩
  · have ht : groupTripped u e = true := (groupTripped_iff u e).mpr hg
    exact ⟨hy ((hchoice hm).trans (guardChoice_tripped ht)), hkept hm fun h => by simp [(guardUnaltered_iff.mp h).1] at ht⟩
  · obtain ⟨hsafe, hhold, hmark⟩ := guardChoice_faulted (o := o) (hfree hg) hf
    exact ⟨hkept hm fun h => (guardUnaltered_iff.mp h).2.1 hf, fun h => hy ((hchoice hm).trans (hsafe h)),
      fun h => hy ((hchoice hm).trans (hhold h)), fun h => hy ((hchoice hm).trans (hmark h))⟩
  · refine ⟨hy ((hchoice hm).trans (guardChoice_suspect (hfree hg) hf hk hs)), hkept hm fun h => ?_⟩
    rcases (guardUnaltered_iff.mp h).2.2 with h | h
    · exact hk h
    · simp [hs] at h
  · have hrow : guardUnaltered u e r o = true := guardUnaltered_iff.mpr ⟨hfree hg, hf, hk⟩
    exact ⟨hy ((hchoice hm).trans (guardChoice_unaltered hrow)), by rw [lastGoodAfter_guard hm, if_pos hrow]⟩
  · have hne : e.mode ≠ .guard := by rw [hm]; decide
    exact ⟨hy (if_neg hne), lastGoodAfter_monitor hm o⟩

/-- Settles O33: the Checker's notes, the evaluation and last_good give the state, and the entry is read from R88 and R93. -/
theorem judgedSampleIsEmittedByTheTable : Obligations.JudgedSampleIsEmittedByTheTable := by
  unfold Obligations.JudgedSampleIsEmittedByTheTable
  intro x s c ho hx hc hs
  refine ⟨_, _, sampleWork_judged ho hx hc hs, rfl, ?_⟩
  intro e r o reported r₁ s₁ s₂ s₃ kept follows forced held
  have hreported : o.reported = reported := by rw [CheckOutcome.reported, checkOutcome_received]
  have hr₁ : notedRecord e o r = r₁ := by
    simp only [r₁]
    cases hv : o.conditioned with
    | none => exact notedRecord_unconditioned hv e r
    | some v =>
      by_cases hk : o.classes = .none
      · simp only [if_pos hk]; exact notedRecord_faultFree hv hk e r
      · simp only [if_neg hk]; exact notedRecord_faulty hk e r
  have hs₃ : afterEvaluation c o (s.markSeen c) = s₃ := by
    rw [afterEvaluation_opened (s := s.markSeen c) ho hr₁, hreported]
    rfl
  have he : s₃.entry c = e := by rw [← hs₃, afterEvaluation_entry]; rfl
  have hlast : (s₃.channel c).lastGood = r.lastGood := by rw [← hs₃, afterEvaluation_lastGood]; rfl
  have hjudge : judge c x (s.markSeen c) =
      (updateLastGood c o s₃, { x with value := (choice s₃ c o).1, quality := (choice s₃ c o).2.code }) := by
    rw [← hs₃]
    exact judge_eq c x (s.markSeen c)
  have hgroup : ∀ g, (updateLastGood c o s₃).group g = s₃.group g :=
    fun g => State.group_congr (updateLastGood_groups c o s₃) g
  have htable := emission_by_the_table s₃ c o
  simp only [he, hlast, heldValue, hreported] at htable
  rw [hjudge]
  simp only [forced, hjudge, updateLastGood_channel, hgroup]
  exact ⟨updateLastGood_eq c o s₃, htable⟩

end Sys2Proof.Machine
end


section
/-! ### A change to BYPASS at an open (R81, R139, R166) -/

namespace Sys2Proof.Machine

/-- The part made BYPASS at the open of cycle n, before its MODE record: every runtime record reset, a pending test aborted (R81, R139,
R166). -/
def madeBypass (n : CycleNo) (s : State) : State :=
  abortPendingTest n (resetAllRecords { s with tables := { s.tables with modeChange := false, deviceMode := .bypass } })

theorem tableStoreOpen_modeChange {s : State} (hm : s.tables.modeChange = true) (hc : s.tables.commit = none) (n : CycleNo) :
    tableStoreOpen n s =
      if s.anyTripped then submit (some n) (.mode .refused) { s with tables := { s.tables with modeChange := false } }
      else submit (some n) (.mode .bypass) (madeBypass n s) := by
  rw [tableStoreOpen, swapAtOpen, hc]
  dsimp only
  rw [modeChangeAtOpen, if_pos hm]
  rfl

theorem anyTripped_of_armed {s : State} (h : ∀ g : Grp, (s.group g).state = .armed) : s.anyTripped = false := by
  rw [Bool.eq_false_iff, Ne, anyTripped_iff]
  rintro ⟨g, hg⟩
  rw [h g] at hg
  cases hg

theorem madeBypass_frame (n : CycleNo) (s : State) :
    madeBypass n s =
      { s with tables := { s.tables with modeChange := false, deviceMode := .bypass }, channels := (madeBypass n s).channels,
               test := (madeBypass n s).test } := by
  unfold madeBypass
  rw [abortPendingTest_frame, resetAllRecords_frame]

/-- In BYPASS no channel is checked, so that every record reset there is IDLE (R7, R68, R81). -/
theorem madeBypass_channel (n : CycleNo) (s : State) (c : Chan) : (madeBypass n s).channel c = .fresh .idle := by
  rw [madeBypass, State.channel_congr (abortPendingTest_channels ..), resetAllRecords_channel, State.freshRecord,
    checked_bypass rfl]
  rfl

theorem abortPendingTest_none {s : State} (h : s.test.pending = none) (n : CycleNo) : abortPendingTest n s = s := by
  rw [abortPendingTest, h]

theorem abortPendingTest_some {s : State} {p : PendingTest} (h : s.test.pending = some p) (n : CycleNo) :
    (abortPendingTest n s).test = ⟨none, ⟨.aborted, some p.expectation.kind, some p.channel, none, some .mode, some n⟩⟩ := by
  rw [abortPendingTest, h]
  rfl

theorem madeBypass_test_none {s : State} (h : s.test.pending = none) (n : CycleNo) : (madeBypass n s).test = s.test := by
  rw [madeBypass, abortPendingTest_none (by rw [resetAllRecords_test]; exact h), resetAllRecords_test]

theorem madeBypass_test_some {s : State} {p : PendingTest} (h : s.test.pending = some p) (n : CycleNo) :
    (madeBypass n s).test = ⟨none, ⟨.aborted, some p.expectation.kind, some p.channel, none, some .mode, some n⟩⟩ :=
  abortPendingTest_some (by rw [resetAllRecords_test]; exact h) n

/-- Settles O29, by whether a group is TRIPPED. -/
theorem modeChangeIsMadeOrDroppedAtTheOpen : Obligations.ModeChangeIsMadeOrDroppedAtTheOpen := by
  unfold Obligations.ModeChangeIsMadeOrDroppedAtTheOpen
  intro n s hm hc
  rw [tableStoreOpen_modeChange hm hc]
  refine ⟨fun tripped => if_pos ((anyTripped_iff s).mpr tripped), fun armed => ⟨madeBypass n s, ?_, madeBypass_frame n s,
    madeBypass_channel n s, fun hp => madeBypass_test_none hp n, fun p hp => madeBypass_test_some hp n⟩⟩
  rw [anyTripped_of_armed armed]
  rfl

end Sys2Proof.Machine
end

section
/-! ### One evaluation, case by case (R69 to R74, R104, R105, R107) -/

namespace Sys2Proof.Machine

theorem ClassSet.verdict_eq (k : ClassSet) : k.verdict = if k = .none then .clean else .violating := by
  simp only [ClassSet.verdict, ClassSet.isEmpty_iff]

theorem pushed_eq (r : ChannelRecord) (w : Nat) (k : ClassSet) :
    r.pushed w k.verdict =
      { r with history := ((if k = .none then .clean else .violating) :: r.history).take w
               violations := (((if k = .none then .clean else .violating) :: r.history).take w).count .violating } := by
  rw [ChannelRecord.pushed, pushVerdict, ClassSet.verdict_eq]
  rfl

section
variable {c : Chan} {n : CycleNo} {k : ClassSet} {v : Option Sample} {s : State}

theorem evaluate_relapse (hf : (s.channel c).state = .faulted) (hk : k ≠ .none) :
    evaluate c n k v s = s.setChannel c { (s.channel c).pushed (s.entry c).window k.verdict with recovery := 0 } := by
  have hne : k.isEmpty ≠ true := fun h => hk (k.isEmpty_iff.mp h)
  simp only [evaluate, if_pos hf, if_neg hne]

theorem evaluate_recovering (hf : (s.channel c).state = .faulted) (hr : (s.channel c).recovery + 1 < (s.entry c).recovery) :
    evaluate c n .none v s =
      s.setChannel c { (s.channel c).pushed (s.entry c).window ClassSet.none.verdict with recovery := (s.channel c).recovery + 1 } := by
  have hlt : ¬ (s.entry c).recovery ≤ ((s.channel c).pushed (s.entry c).window ClassSet.none.verdict).recovery + 1 :=
    Nat.not_le.mpr hr
  simp only [evaluate, if_pos hf, if_pos (ClassSet.none.isEmpty_iff.mpr rfl), if_neg hlt]
  rfl

theorem evaluate_recovers (hf : (s.channel c).state = .faulted) (hr : (s.entry c).recovery ≤ (s.channel c).recovery + 1) :
    evaluate c n .none v s = submit (some n) (.recover c) (s.setChannel c (s.channel c).recovered) := by
  have hle : (s.entry c).recovery ≤ ((s.channel c).pushed (s.entry c).window ClassSet.none.verdict).recovery + 1 := hr
  simp only [evaluate, if_pos hf, if_pos (ClassSet.none.isEmpty_iff.mpr rfl), if_pos hle]
  rfl

theorem evaluate_below (hf : (s.channel c).state ≠ .faulted)
    (ht : ((s.channel c).pushed (s.entry c).window k.verdict).violations < (s.entry c).threshold) :
    evaluate c n k v s = s.setChannel c
      { (s.channel c).pushed (s.entry c).window k.verdict with
        state := if ((s.channel c).pushed (s.entry c).window k.verdict).violations = 0 then .clean else .suspect } := by
  simp only [evaluate, if_neg hf, if_neg (Nat.not_le.mpr ht)]

theorem evaluate_qualifies (hf : (s.channel c).state ≠ .faulted)
    (ht : (s.entry c).threshold ≤ ((s.channel c).pushed (s.entry c).window k.verdict).violations) :
    evaluate c n k v s = qualifyFault c n k v ((s.channel c).pushed (s.entry c).window k.verdict) s := by
  simp only [evaluate, if_neg hf, if_pos ht]

end

/-- The part with a fault qualified and its FAULT record submitted, before any trip request (R70). -/
def faultReported (c : Chan) (n : CycleNo) (k : ClassSet) (v : Option Sample) (r : ChannelRecord) (s : State) : State :=
  submit (some n) (.fault c k v (s.entry c).group) (s.setChannel c (r.qualified k n))

/-- Qualification of channel c requests group g: c is a GUARD channel of g with trip yes, in ACTIVE (R74, R106). -/
abbrev Requests (s : State) (c : Chan) (g : Grp) : Prop :=
  (s.entry c).group = some g ∧ (s.entry c).mode = .guard ∧ (s.entry c).trip = true ∧ s.tables.deviceMode = .active

theorem Requests.unique {s : State} {c : Chan} {g g' : Grp} (h : Requests s c g) (h' : Requests s c g') : g' = g :=
  Option.some.inj (h'.1.symm.trans h.1)

theorem Requests.active {s : State} {c : Chan} {g : Grp} (h : Requests s c g) : s.tables.deviceMode = .active := by
  obtain ⟨-, -, -, hm⟩ := h
  exact hm

theorem tripRequest_armed {s : State} {q : TripRequest} (hm : s.tables.deviceMode = .active)
    (ha : (s.group q.group).state = .armed) :
    tripRequest q s =
      { submit q.cycle (.trip q.group q.cause q.channel) (s.setGroup q.group (q.record (s.groupEntry q.group).holdoff)) with
        faultLow := true } := by
  simp [tripRequest, hm, ha]

theorem tripRequest_tripped {s : State} {q : TripRequest} (hm : s.tables.deviceMode = .active)
    (ht : (s.group q.group).state = .tripped) :
    tripRequest q s = s.setGroup q.group { s.group q.group with holdoffLeft := (s.groupEntry q.group).holdoff } := by
  simp [tripRequest, hm, ht]

section
variable (c : Chan) (n : CycleNo) (k : ClassSet) (v : Option Sample) (r : ChannelRecord) {s : State} {g : Grp}

theorem faultReported_group (g : Grp) : (faultReported c n k v r s).group g = s.group g := by
  rw [faultReported, submit_group]; rfl

theorem faultReported_groupEntry (g : Grp) : (faultReported c n k v r s).groupEntry g = s.groupEntry g :=
  State.groupEntry_congr (by simp [faultReported]) g

theorem faultReported_deviceMode : (faultReported c n k v r s).tables.deviceMode = s.tables.deviceMode := by
  simp [faultReported]

theorem qualifyFault_requests (h : Requests s c g) :
    qualifyFault c n k v r s = tripRequest ⟨g, .channel, some c, some n⟩ (faultReported c n k v r s) := by
  obtain ⟨hg, hm, ht, -⟩ := h
  simp [qualifyFault, faultReported, hg, hm, ht]

theorem qualifyFault_trips (h : Requests s c g) (ha : (s.group g).state = .armed) :
    qualifyFault c n k v r s =
      { submit (some n) (.trip g .channel (some c)) ((faultReported c n k v r s).setGroup g
          ⟨.tripped, some .channel, some c, some n, (s.groupEntry g).holdoff⟩) with faultLow := true } := by
  rw [qualifyFault_requests c n k v r h, tripRequest_armed ((faultReported_deviceMode ..).trans h.active)
    (by rw [faultReported_group]; exact ha), faultReported_groupEntry]
  rfl

theorem qualifyFault_restarts (h : Requests s c g) (ht : (s.group g).state = .tripped) :
    qualifyFault c n k v r s =
      (faultReported c n k v r s).setGroup g { s.group g with holdoffLeft := (s.groupEntry g).holdoff } := by
  rw [qualifyFault_requests c n k v r h, tripRequest_tripped ((faultReported_deviceMode ..).trans h.active)
    (by rw [faultReported_group]; exact ht), faultReported_groupEntry, faultReported_group]

theorem qualifyFault_silent (h : ∀ g, ¬ Requests s c g) : qualifyFault c n k v r s = faultReported c n k v r s := by
  unfold qualifyFault faultReported
  dsimp only
  split
  · rfl
  · rename_i g hg
    split
    · rename_i hmt
      rw [Bool.and_eq_true, beq_iff_eq] at hmt
      refine tripRequest_bypass ?_ _
      rw [submit_tables, setChannel_tables]
      cases hm : s.tables.deviceMode with
      | bypass => rfl
      | active => exact absurd ⟨hg, hmt.1, hmt.2, hm⟩ (h g)
    · rfl

/-- Qualification requests no group but its channel's, and that one where it requests at all (R74, R104, R105). -/
theorem qualifyFault_group (g : Grp) :
    (qualifyFault c n k v r s).group g =
      if Requests s c g then afterRequest s g .channel (some c) (some n) else s.group g := by
  by_cases hr : ∃ g', Requests s c g'
  · obtain ⟨g', hg'⟩ := hr
    rw [qualifyFault_requests c n k v r hg', tripRequest_group ((faultReported_deviceMode ..).trans hg'.active), faultReported_group,
      afterRequest, faultReported_group, faultReported_groupEntry]
    by_cases heq : g' = g
    · subst heq; rw [if_pos rfl, if_pos hg']; rfl
    · rw [if_neg heq, if_neg fun h => heq (h.unique hg')]
  · have silent : ∀ g, ¬ Requests s c g := fun g hg => hr ⟨g, hg⟩
    rw [qualifyFault_silent c n k v r silent, faultReported_group, if_neg (silent g)]

/-- The FAULT record is the first that a qualification submits (R70). -/
theorem qualifyFault_firstRecord (hl : s.log.records.length < 64) :
    (newRecords s.log (qualifyFault c n k v r s).log).head? = some (some n, .fault c k v (s.entry c).group) := by
  have hkeeps : KeepsRecords (faultReported c n k v r s).log (qualifyFault c n k v r s).log := by
    by_cases hr : ∃ g, Requests s c g
    · obtain ⟨g, hg⟩ := hr
      rw [qualifyFault_requests c n k v r hg]
      exact tripRequest_keeps ..
    · rw [qualifyFault_silent c n k v r fun g hg => hr ⟨g, hg⟩]
      exact .refl _
  have hfirst : KeepsRecords s.log (faultReported c n k v r s).log := submit_keeps _ _ (s.setChannel c _)
  have hnew : newRecords s.log (faultReported c n k v r s).log = [(some n, .fault c k v (s.entry c).group)] :=
    newRecords_submit (s := s.setChannel c _) hl _ _
  rw [newRecords_append hfirst hkeeps, hnew]
  rfl

end

/-- Settles O31, by the cases of an evaluation and, where a fault qualifies, by whether its group is requested. -/
theorem evaluationJudgesOneChannel : Obligations.EvaluationJudgesOneChannel := by
  unfold Obligations.EvaluationJudgesOneChannel
  intro c n k v s
  have hp := pushed_eq (s.channel c) (s.entry c).window k
  have hv := congrArg ChannelRecord.violations hp
  refine ⟨fun d hd => ?_, fun hf hk => ?_, fun hf hk hr => ?_, fun hf hk hr => ?_, fun hf ht => ?_, fun hf ht => ?_⟩
  · rw [evaluate_channel, if_neg hd.symm]
  · rw [evaluate_relapse hf hk, hp]
  · subst hk
    rw [evaluate_recovering hf hr, hp]
  · subst hk
    exact evaluate_recovers hf hr
  · rw [evaluate_below hf (hv.trans_lt ht), hp]
  · rw [evaluate_qualifies hf (ht.trans_eq hv.symm), hp]
    exact ⟨fun g => qualifyFault_group c n k v _ g, fun g hg => qualifyFault_trips c n k v _ hg,
      fun g hg => qualifyFault_restarts c n k v _ hg, qualifyFault_silent c n k v _, qualifyFault_firstRecord c n k v _⟩

end Sys2Proof.Machine
end

section
/-! ### RESET by its scopes (R68, R182 to R184) -/

namespace Sys2Proof.Machine

theorem scopeOf_eq_none {args : List Byte} (h₀ : args ≠ [0]) (h₁ : args ≠ [1]) (h₂ : args ≠ [2]) : scopeOf args = none := by
  unfold scopeOf
  split
  · rename_i b
    rw [if_neg fun h => h₀ (by rw [h]), if_neg fun h => h₁ (by rw [h]), if_neg fun h => h₂ (by rw [h])]
  · rfl

theorem freshRecord_eq (s : State) (c : Chan) :
    s.freshRecord c = .fresh (if s.tables.deviceMode = .active ∧ (s.entry c).mode ≠ .off then .clean else .idle) := by
  simp [State.freshRecord, State.checked]

section
variable {s : State} {c : Command} {rest : List Command}

theorem isReset_of (hh : AtHead s c rest 0x60) {scope : ResetScope} (hs : scopeOf c.args = some scope ∨ scopeOf c.args = none) :
    isReset scope c = true := by
  rcases hs with hs | hs <;> simp [isReset, hh.code, hs]

theorem exec_resetRuntime (hh : AtHead s c rest 0x60) (ha : c.args = [0]) :
    exec .resetRuntime s = answers c .ok (.scope .runtime) (resetRuntimeOp (taken s rest)) :=
  takeHead_of (a := ⟨resetRuntimeOp (taken s rest), .ok, .scope .runtime⟩) hh (isReset_of hh (.inl (by rw [ha]; rfl)))
    (by rw [ha]; rfl)

theorem exec_resetLog (hh : AtHead s c rest 0x60) (ha : c.args = [1]) :
    exec .resetLog s = answers c .ok (.scope .log) (clearLog (taken s rest)) :=
  takeHead_of (a := ⟨clearLog (taken s rest), .ok, .scope .log⟩) hh (isReset_of hh (.inl (by rw [ha]; rfl))) (by rw [ha]; rfl)

/-- A malformed RESET is answered BADARG, whichever RESET row takes it (R182; log 15). -/
theorem exec_reset_malformed (hh : AtHead s c rest 0x60) (hs : scopeOf c.args = none) :
    exec .resetRuntime s = answers c .badArg .empty (taken s rest) ∧
      exec .resetLog s = answers c .badArg .empty (taken s rest) ∧
      exec .resetDevice s = answers c .badArg .empty (taken s rest) := by
  have refused : ∀ (scope : ResetScope) (run : List Byte → State → Answer),
      run c.args (taken s rest) = refuse (taken s rest) .badArg →
      act (takeHead (isReset scope) run s) = answers c .badArg .empty (taken s rest) := fun scope run hr =>
    takeHead_of hh (isReset_of hh (.inr hs)) hr
  exact ⟨refused .runtime runResetRuntime (by simp [runResetRuntime, hs]), refused .log runResetLog (by simp [runResetLog, hs]),
    refused .device runResetDevice (by simp [runResetDevice, hs])⟩

end

/-- Between steps every queued frame is complete, so that RESET DEVICE takes nothing from it but its mark (R184, R189). -/
theorem ForwardSettled.unmarked {s : State} (h : ForwardSettled s) :
    s.forward.map (fun q => { q with complete := true, ending := false }) = s.forward.map (fun q => { q with ending := false }) := by
  refine List.map_congr_left fun q hq => ?_
  obtain ⟨hc, -, -⟩ := h.1 q hq
  rw [hc]

theorem resetDeviceOp_settled {s : State} (h : ForwardSettled s) :
    resetDeviceOp s =
      { State.reset with
        nodeAddr := s.nodeAddr, tripHigh := s.tripHigh, upU := s.upU, upD := s.upD, rxU := s.rxU, rxD := s.rxD, txD := s.txD
        txU := s.txU, forward := s.forward.map (fun q => { q with ending := false }), ret := s.ret, pending := s.pending } := by
  rw [resetDeviceOp, h.unmarked]

theorem resetRuntimeOp_frame (s : State) :
    resetRuntimeOp s =
      { s with channels := (resetRuntimeOp s).channels, counters := .zero
               tracker := { s.tracker with consecutiveLost := 0, lostTotal := 0 } } := by
  unfold resetRuntimeOp
  rw [resetAllRecords_frame]

/-- Settles O51, by the scope the command carries. -/
theorem resetScopesResetWhatTheyName : Obligations.ResetScopesResetWhatTheyName := by
  unfold Obligations.ResetScopesResetWhatTheyName
  intro s c rest hh
  refine ⟨fun ha => ?_, fun ha => ?_, fun ha hf => ?_, fun h₀ h₁ h₂ => ?_⟩
  · refine ⟨resetRuntimeOp (taken s rest), exec_resetRuntime hh ha, resetRuntimeOp_frame _, fun k => ?_⟩
    change (resetAllRecords (taken s rest)).channel k = _
    rw [resetAllRecords_channel, freshRecord_eq]
    rfl
  · exact exec_resetLog hh ha
  · have hu := resetDeviceOp_settled (s := taken s rest) hf
    exact ⟨resetDeviceOp (taken s rest), exec_resetDevice hh ha, hu, rfl, rfl, rfl, rfl, rfl, rfl, rfl, rfl⟩
  · exact exec_reset_malformed hh (scopeOf_eq_none h₀ h₁ h₂)

end Sys2Proof.Machine
end

section
/-! ### What every row keeps, from what the part's own acts keep (R171, R187 to R195; log 5) -/

namespace Sys2Proof.Machine

/-! #### The part behind its ports -/

/-- The part without its pins, ports, queues and counters: the tables, the tracker, the records, the groups, the log and the test
record. -/
def State.core (s : State) : State :=
  { State.reset with
    faultLow := s.faultLow, tables := s.tables, tracker := s.tracker, repeats := s.repeats, channels := s.channels
    groups := s.groups, log := s.log, test := s.test }

theorem setRx_core (s : State) (p : Port) (r : Receiver) : (s.setRx p r).core = s.core := by cases p <;> rfl

theorem portUpOp_core (p : Port) (s : State) : (portUpOp p s).core = s.core := by cases p <;> rfl

theorem portDDownOp_core (s : State) : (portDDownOp s).core = s.core := by
  unfold portDDownOp; split <;> rfl

theorem transmitEnd_core (p : Port) (s : State) : (transmitEnd p s).core = s.core := by
  unfold transmitEnd; repeat' split
  all_goals rfl

theorem settle_core (s : State) : (settle s).core = s.core := by
  rw [settle_frame]; rfl

theorem countCheckError_core (p : Port) (s : State) : (countCheckError p s).core = s.core := by cases p <;> rfl

theorem countFormatError_core (p : Port) (s : State) : (countFormatError p s).core = s.core := by cases p <;> rfl

theorem enterReturn_core (l : List Byte) (s : State) : (enterReturn l s).core = s.core := by
  unfold enterReturn; split <;> rfl

theorem offerCommand_core (c : Command) (s : State) : (offerCommand c s).core = s.core := by
  unfold offerCommand; split <;> rfl

theorem offerBroadcast_core (c : Command) (s : State) : (offerBroadcast c s).core = s.core := by
  unfold offerBroadcast
  split
  · exact offerCommand_core c s
  · rfl

theorem sortCommand_core (payload whole : List Byte) (s : State) : (sortCommand payload whole s).core = s.core := by
  unfold sortCommand
  split
  · split
    · exact (offerBroadcast_core _ _).trans (enterReturn_core whole s)
    · split
      · exact offerCommand_core _ s
      · exact enterReturn_core whole s
  · rfl

theorem receiveD_core (f : Arriving) (ending : FrameEnd) (s : State) : (receiveD f ending s).core = s.core := by
  unfold receiveD
  split
  · exact countCheckError_core .d s
  · exact countFormatError_core .d s
  · split
    · exact sortCommand_core _ _ s
    · exact enterReturn_core _ s

/-- No event of port D's receiver reaches behind the ports (R187, R188, R194). -/
theorem lineEventD_core (e : RxEvent) (s : State) : (lineEventD e s).core = s.core := by
  cases e with
  | comesUp => exact portUpOp_core .d s
  | goesDown => exact portDDownOp_core s
  | frame f ending => exact receiveD_core f ending s
  | overlong => exact countFormatError_core .d s

theorem placeReply_core (c : Command) (status : Status) (result : Result) (s : State) :
    (placeReply c status result s).core = s.core := by
  unfold placeReply; split <;> rfl

/-! #### The RESET rows as RESET (R182) -/

theorem runResetRuntime_eq (args : List Byte) (s : State) :
    runResetRuntime args s = if scopeOf args = some .runtime then runReset args s else refuse s .badArg := by
  by_cases h : scopeOf args = some .runtime <;> simp [runReset, runResetRuntime, h]

theorem runResetLog_eq (args : List Byte) (s : State) :
    runResetLog args s = if scopeOf args = some .log then runReset args s else refuse s .badArg := by
  by_cases h : scopeOf args = some .log <;> simp [runReset, runResetLog, h]

theorem runResetDevice_eq (args : List Byte) (s : State) :
    runResetDevice args s = if scopeOf args = some .device then runReset args s else refuse s .badArg := by
  by_cases h : scopeOf args = some .device <;> simp [runReset, runResetDevice, h]

/-! #### An invariant of the part's own acts -/

/-- A condition that is read behind the ports, holds at power-on, and that the tracker's acts, the work on a sample, the trip line, the
end of a bank copy and the commands keep. -/
structure Invariant (P : State → Prop) : Prop where
  onCore : ∀ {s t : State}, P s → t.core = s.core → P t
  onReset : P .reset
  onArrive : ∀ (n : CycleNo) (i : Nat) {s : State}, P s → P (arrive n i s).2
  onSample : ∀ (x : SampleEntry) {s : State}, P s → P (sampleWork x s).1
  onClose : ∀ (k : CloseKind) {s : State}, s.tracker.state = .opened → P s → P (closeCycle k s)
  onLostCycle : ∀ {s : State}, s.tracker.state = .closed → P s → P (lostCycle s)
  onLinkLoss : ∀ {s : State}, s.tracker.state ≠ .nosync → P s → P (linkLoss s)
  onTripLine : ∀ {s : State}, P s → P (tripLineFall s)
  onCopy : ∀ {s : State}, P s → P (completeCopy s)
  onCommand : ∀ {code : Byte} {run : List Byte → State → Answer}, (code, run) ∈ commandTable →
    ∀ (args : List Byte) {s : State}, P s → P (run args s).state

namespace Invariant

variable {P : State → Prop} (inv : Invariant P) {s : State}
include inv

/-! #### Commands (R171, R182) -/

/-- Whichever commands a row takes, it leaves what the carrying out of the command at the head leaves. -/
theorem onTakeHead (is : Command → Bool) {run : List Byte → State → Answer}
    (hrun : ∀ (args : List Byte) {u : State}, P u → P (run args u).state) (hs : P s) : P (takeHead is run s) := by
  unfold takeHead
  split
  · exact hs
  · rename_i c rest _
    split
    · have taken : P { s with cmdFifo := rest } := inv.onCore hs rfl
      exact inv.onCore (hrun c.args taken) (placeReply_core ..)
    · exact hs

theorem onExecutor (hs : P s) : P (executorTakes s) := by
  unfold executorTakes
  split
  · exact hs
  · refine inv.onTakeHead _ (fun args u hu => ?_) hs
    cases hcat : catalogue _ with
    | none => exact hu
    | some run => exact inv.onCommand (catalogue_mem hcat) args hu

/-- A RESET row carries out RESET where the command names its scope, and nothing else (R182). -/
theorem onResetRow (scope : ResetScope) {run : List Byte → State → Answer}
    (hrun : ∀ args u, run args u = if scopeOf args = some scope then runReset args u else refuse u .badArg) (hs : P s) :
    P (takeHead (isReset scope) run s) := by
  refine inv.onTakeHead _ (fun args u hu => ?_) hs
  rw [hrun]
  split
  · exact inv.onCommand (code := 0x60) (by simp [commandTable]) args hu
  · exact hu

/-! #### The ports (R187, R194, R195) -/

theorem onTakeLine (p : Port) {on : RxEvent → State → State} (hon : ∀ e {u : State}, P u → P (on e u)) (l : List Symbol) (hs : P s) :
    P (takeLine p on l s) := by
  rw [takeLine_eq]
  split
  · exact inv.onCore hs (setRx_core ..)
  · exact hon _ (inv.onCore hs (setRx_core ..))

theorem onTakeLineD (line : List Pattern) (hs : P s) : P (takeLineD line s) :=
  inv.onTakeLine .d (fun e _ hu => inv.onCore hu (lineEventD_core e _)) _ hs

theorem onCauseD (c : DownCause) (hs : P s) : P (causeD c s) := by
  cases c with
  | lossOfSignal => exact inv.onCore hs (portDDownOp_core s)
  | violations line => exact inv.onTakeLineD line hs

theorem onTransmitEndD (down : Option DownCause) (hs : P s) : P (transmitEndD down s) := by
  have ended := inv.onCore hs (transmitEnd_core .d s)
  cases down with
  | none => exact ended
  | some c => exact inv.onCauseD c ended

theorem onPortUDown (hs : P s) : P (portUDownOp s) := by
  unfold portUDownOp
  split
  · have cut : P { s with upU := false, rxU := .quiet, txU := none } := inv.onCore hs rfl
    dsimp only
    split
    · exact cut
    · rename_i hn; exact inv.onLinkLoss hn cut
  · exact hs

/-- An event of port U keeps the condition where a SEG that finds a place does. -/
theorem onLineEventU {f : Segment → State → State} (hf : ∀ g {u : State}, P u → P (f g u)) (e : RxEvent) (hs : P s) :
    P (lineEventU f e s) := by
  cases e with
  | comesUp => exact inv.onCore hs (portUpOp_core .u s)
  | goesDown => exact inv.onPortUDown hs
  | frame a ending =>
    unfold lineEventU receiveU
    dsimp only
    split
    · exact inv.onCore hs (countCheckError_core .u s)
    · exact inv.onCore hs (countFormatError_core .u s)
    · repeat' split
      · exact hf _ hs
      · exact inv.onCore hs rfl
      · exact inv.onCore hs rfl
  | overlong => exact inv.onCore hs (countFormatError_core .u s)

/-! #### A segment's work (R41, R45, R65) -/

theorem onTripRise (hs : P s) : P (tripLineRise s) := inv.onCore hs rfl

theorem onBetween (b : Between) (hs : P s) : P (betweenAct b s) := by
  refine inv.onCore ?_ (settle_core _)
  cases b with
  | executorTakes => exact inv.onExecutor hs
  | tripNFall => exact inv.onTripLine hs
  | tripNRise => exact inv.onTripRise hs
  | bankCopyComplete => exact inv.onCopy hs
  | transmitEndU => exact inv.onCore hs (transmitEnd_core .u s)
  | transmitEndD down => exact inv.onTransmitEndD down hs
  | portDLine line => exact inv.onTakeLineD line hs
  | portDSignalLoss => exact inv.onCore hs (portDDownOp_core s)
  | portULine line =>
    dsimp only
    unfold takeBeside
    split
    · exact hs
    · exact inv.onTakeLine .u (fun e _ hu => inv.onLineEventU (fun _ _ h => h) e hu) _ hs

theorem onBetweens (l : List Between) (hs : P s) : P (betweenActs l s) :=
  List.foldlRecOn l _ hs fun _ hu b _ => inv.onBetween b hu

theorem onWorkDone (left : List SampleEntry) (hs : P s) : P (workDone left s) := by
  refine inv.onCore ?_ (settle_core _)
  split
  · exact inv.onCore hs rfl
  · exact hs

theorem onSamples (g : Segment) (out left : List SampleEntry) (between : List (List Between)) (hs : P s) :
    P (workSamples g out left between s) := by
  induction left generalizing out between s with
  | nil => exact List.foldlRecOn between _ hs fun _ hu l _ => inv.onBetweens l hu
  | cons x left ih =>
    have worked := inv.onSample x (inv.onBetweens (between.headD []) hs)
    exact ih _ _ (inv.onWorkDone left (inv.onCore worked rfl))

theorem onCloseOnLast (last : Bool) (hs : P s) : P (closeOnLast last s) := by
  unfold closeOnLast
  split
  · rename_i hc
    obtain ⟨-, ho⟩ := Bool.and_eq_true_iff.mp hc
    exact inv.onClose .complete (beq_iff_eq.mp ho) hs
  · exact hs

theorem onSegment (between : List (List Between)) (g : Segment) (hs : P s) : P (takeSegment between g s) := by
  have entered : P (enterSegment g s) := inv.onCore hs rfl
  have arrived := inv.onArrive g.cycle g.index entered
  unfold takeSegment segmentArrival
  dsimp only
  repeat' split
  · exact inv.onCore (inv.onCloseOnLast _ (inv.onSamples _ _ _ _ (inv.onWorkDone _ arrived))) rfl
  · exact inv.onCore arrived rfl
  · exact inv.onCore arrived rfl

/-! #### Whole rows -/

theorem onTakeFrom (p : Port) (line : List Pattern) (between : List (List Between)) (hs : P s) :
    P (takeFrom p line between s) := by
  cases p with
  | u => exact inv.onTakeLine .u (fun e _ hu => inv.onLineEventU (fun g _ h => inv.onSegment between g h) e hu) _ hs
  | d => exact inv.onTakeLineD line hs

theorem onCauseU (c : DownCause) (hs : P s) : P (causeU c s) := by
  cases c with
  | lossOfSignal => exact inv.onPortUDown hs
  | violations line => exact inv.onTakeFrom .u line [] hs

theorem onTransmitEndU (down : Option DownCause) (hs : P s) : P (transmitEndU down s) := by
  have ended := inv.onCore hs (transmitEnd_core .u s)
  cases down with
  | none => exact ended
  | some c => exact inv.onCauseU c ended

theorem onTimer (hs : P s) : P (timerExpiry s) := by
  unfold timerExpiry
  split
  · exact hs
  · split
    · exact hs
    · rename_i ho; exact inv.onClose .byTimer ho hs
    · rename_i hc; exact inv.onLostCycle hc hs

/-- Every row leaves a state that meets the condition. -/
theorem onExec (i : Instr) (hs : P s) : ∃ u, exec i s = .next u ∧ P u := by
  have row : ∀ u : State, P u → ∃ v, act u = .next v ∧ P v := fun u hu => ⟨_, rfl, inv.onCore hu (settle_core u)⟩
  have command : ∀ (code : Byte) (is : Command → Bool) (run : List Byte → State → Answer), (code, run) ∈ commandTable →
      ∃ v, act (takeHead is run s) = .next v ∧ P v := fun code is run hm =>
    row _ (inv.onTakeHead is (fun args _ hu => inv.onCommand hm args hu) hs)
  cases i with
  | powerOnReset straps tripHigh => exact row _ (inv.onCore inv.onReset rfl)
  | frameReceived p line last between => exact row _ (inv.onTakeFrom p _ between hs)
  | cycleTimerExpiry => exact row _ (inv.onTimer hs)
  | bankCopyComplete => exact row _ (inv.onCopy hs)
  | tripNFall => exact row _ (inv.onTripLine hs)
  | tripNRise => exact row _ (inv.onTripRise hs)
  | portUp p line => exact row _ (inv.onTakeFrom p line [] hs)
  | portDDown cause => exact row _ (inv.onCauseD cause hs)
  | portUDown cause => exact row _ (inv.onCauseU cause hs)
  | frameTransmitEnd e =>
    obtain ⟨port, down⟩ := e
    cases port
    · exact row _ (inv.onTransmitEndU down hs)
    · exact row _ (inv.onTransmitEndD down hs)
  | frameOverlong t => exact row _ (inv.onTakeFrom t.port t.line [] hs)
  | resetRuntime => exact row _ (inv.onResetRow .runtime runResetRuntime_eq hs)
  | resetLog => exact row _ (inv.onResetRow .log runResetLog_eq hs)
  | resetDevice => exact row _ (inv.onResetRow .device runResetDevice_eq hs)
  | unknownCommand => exact row _ (inv.onTakeHead _ (fun _ _ hu => hu) hs)
  | identify => exact command 0x01 _ runIdentify (by simp [commandTable])
  | status => exact command 0x02 _ runStatus (by simp [commandTable])
  | readChannel => exact command 0x10 _ runReadChannel (by simp [commandTable])
  | writeChannel => exact command 0x11 _ runWriteChannel (by simp [commandTable])
  | readGroup => exact command 0x12 _ runReadGroup (by simp [commandTable])
  | writeGroup => exact command 0x13 _ runWriteGroup (by simp [commandTable])
  | readCycle => exact command 0x14 _ runReadCycle (by simp [commandTable])
  | writeCycle => exact command 0x15 _ runWriteCycle (by simp [commandTable])
  | commit => exact command 0x20 _ runCommit (by simp [commandTable])
  | cancel => exact command 0x21 _ runCancel (by simp [commandTable])
  | bypass => exact command 0x22 _ runBypass (by simp [commandTable])
  | channelState => exact command 0x30 _ runChannelState (by simp [commandTable])
  | groupState => exact command 0x31 _ runGroupState (by simp [commandTable])
  | trip => exact command 0x32 _ runTrip (by simp [commandTable])
  | rearm => exact command 0x33 _ runRearm (by simp [commandTable])
  | logRead => exact command 0x40 _ runLogRead (by simp [commandTable])
  | logAck => exact command 0x41 _ runLogAck (by simp [commandTable])
  | logClear => exact command 0x42 _ runLogClear (by simp [commandTable])
  | test => exact command 0x50 _ runTestCommand (by simp [commandTable])
  | testResult => exact command 0x51 _ runTestResult (by simp [commandTable])

/-- A step keeps the condition: it is a row on the queue's rest, or the part idles. -/
theorem onStep {t : State} (hs : P s) (hstep : step s = .next t) : P t := by
  unfold step at hstep
  split at hstep
  · cases hstep; exact hs
  · rename_i i rest _
    obtain ⟨u, hu, kept⟩ := inv.onExec i (s := { s with pending := rest }) (inv.onCore hs rfl)
    rw [hu] at hstep
    cases hstep
    exact kept

end Invariant

end Sys2Proof.Machine
end

section
/-! ### What a write keeps: ranges, agreement and what is pending (R5, R9, R12, R15 to R17) -/

namespace Sys2Proof.Machine

/-! #### The items of a field list (R16, R175) -/

/-- A number of some bytes is below 256 to the power of how many they are (R196). -/
theorem bigEndian_lt (l : List Byte) : bigEndian l < 256 ^ l.length := by
  induction l using List.reverseRecOn with
  | nil => exact Nat.one_pos
  | append_singleton l b ih =>
    have hb := b.isLt
    simp only [bigEndian, List.foldl_append, List.foldl_cons, List.foldl_nil, List.length_append, List.length_singleton,
      Nat.pow_succ] at ih ⊢
    omega

/-- An item as a field list can hold it: its value fits the width of the field it names (R175). -/
def Item.Fits (width : Nat → Option Nat) (i : Item) : Prop := ∃ w, width i.number = some w ∧ i.value < 256 ^ w

theorem readItems_fits {width : Nat → Option Nat} {k : Nat} {args : List Byte} {l : FieldList}
    (h : readItems width k args = some l) : ∀ i ∈ l.items, i.Fits width := by
  induction k generalizing args l with
  | zero => cases h
  | succ k ih =>
    cases args with
    | nil => cases h; nofun
    | cons b rest =>
      rw [readItems] at h
      split at h
      · cases h; nofun
      · rename_i w hw
        split at h
        · cases h
        · rename_i hlen
          obtain ⟨l', hl', rfl⟩ := Option.map_eq_some_iff.mp h
          intro i hi
          rcases List.mem_cons.mp hi with rfl | hi
          · have hv := bigEndian_lt (rest.take w)
            rw [List.length_take, Nat.min_eq_left (Nat.not_lt.mp hlen)] at hv
            exact ⟨w, hw, hv⟩
          · exact ih hl' i hi

theorem fieldListOf_fits {width : Nat → Option Nat} {limit : Nat} {args : List Byte} {l : FieldList}
    (h : fieldListOf width limit args = some l) : ∀ i ∈ l.items, i.Fits width := by
  unfold fieldListOf at h
  split at h
  · cases h
  · rename_i l' hl'
    split at h
    · cases h; exact readItems_fits hl'
    · cases h

theorem firstRefused_none {r : Nat → Nat → Bool} {l : FieldList} (h : firstRefused r l = none) :
    ∀ i ∈ l.items, r i.number i.value = true := by
  unfold firstRefused at h
  split at h
  · cases h
  · rename_i hf
    intro i hi
    simpa using List.find?_eq_none.mp hf i hi

/-! #### A field in its range (R5, R9, R12, R17) -/

theorem writeChannelField_inRange {e : ChannelEntry} (h : e.InRange) {i : Item} (hf : i.Fits channelWidth)
    (hr : channelInRange i.number i.value = true) : (writeChannelField e i).InRange := by
  obtain ⟨period, phase, rateLimit, window, threshold, recovery⟩ := h
  obtain ⟨w, hw, hv⟩ := hf
  unfold writeChannelField
  split
  case h_2 hn => exact ⟨by simpa [channelInRange, hn, or_assoc] using hr, phase, rateLimit, window, threshold, recovery⟩
  case h_3 hn => exact ⟨period, by simpa [channelInRange, hn] using hr, rateLimit, window, threshold, recovery⟩
  case h_10 hn => exact ⟨period, phase, by simpa [channelInRange, hn] using hr, window, threshold, recovery⟩
  case h_13 hn => exact ⟨period, phase, rateLimit, by simpa [channelInRange, hn] using hr, threshold, recovery⟩
  case h_14 hn => exact ⟨period, phase, rateLimit, window, by simpa [channelInRange, hn] using hr, recovery⟩
  case h_15 hn =>
    have hw : w = 1 := by simpa [channelWidth, hn, eq_comm] using hw
    have hone : 1 ≤ i.value := by simpa [channelInRange, hn] using hr
    subst hw
    exact ⟨period, phase, rateLimit, window, threshold, hone, Nat.le_of_lt_succ hv⟩
  all_goals exact ⟨period, phase, rateLimit, window, threshold, recovery⟩

theorem writeGroupField_holdoff {e : GroupEntry} (h : e.holdoff ≤ 255) {i : Item} (hf : i.Fits groupWidth) :
    (writeGroupField e i).holdoff ≤ 255 := by
  obtain ⟨w, hw, hv⟩ := hf
  unfold writeGroupField
  split
  case h_2 hn =>
    have hw : w = 1 := by simpa [groupWidth, hn, eq_comm] using hw
    subst hw
    exact Nat.le_of_lt_succ hv
  all_goals exact h

/-- The fields of a cycle parameters record lie in their ranges (R12). -/
structure CycleParams.InRange (p : CycleParams) : Prop where
  timeout : 10 ≤ p.cycleTimeout ∧ p.cycleTimeout ≤ 65535
  lossLimit : 1 ≤ p.lossLimit ∧ p.lossLimit ≤ 16

theorem writeCycleField_inRange {p : CycleParams} (h : p.InRange) {i : Item} (hf : i.Fits cycleWidth)
    (hr : cycleInRange i.number i.value = true) : (writeCycleField p i).InRange := by
  obtain ⟨timeout, lossLimit⟩ := h
  obtain ⟨w, hw, hv⟩ := hf
  unfold writeCycleField
  split
  case h_1 hn =>
    have hw : w = 2 := by simpa [cycleWidth, hn, eq_comm] using hw
    have hten : 10 ≤ i.value := by simpa [cycleInRange, hn] using hr
    subst hw
    exact ⟨⟨hten, Nat.le_of_lt_succ hv⟩, lossLimit⟩
  case h_2 hn => exact ⟨timeout, by simpa [cycleInRange, hn] using hr⟩
  all_goals exact ⟨timeout, lossLimit⟩

/-! #### The banks (R3, R15) -/

theorem TablesInRange.active {t : TableStore} (h : TablesInRange t) : t.activeBank.InRange := by
  unfold TableStore.activeBank
  cases t.active
  · exact h.1
  · exact h.2

theorem TablesInRange.staging {t : TableStore} (h : TablesInRange t) : t.stagingBank.InRange := by
  unfold TableStore.stagingBank
  cases t.active
  · exact h.2
  · exact h.1

theorem TablesInRange.setStaging {t : TableStore} (h : TablesInRange t) {b : Bank} (hb : b.InRange) :
    TablesInRange (t.setStaging b) := by
  unfold TableStore.setStaging
  split
  · exact ⟨h.1, hb⟩
  · exact ⟨hb, h.2⟩

/-- The staging bank and the marks written, and nothing else of the tables; the new bank in range, and every entry that differs from
the old one marked (R15, R16). -/
structure Written (t u : TableStore) : Prop where
  active : u.activeBank = t.activeBank
  commit : u.commit = t.commit
  modeChange : u.modeChange = t.modeChange
  copy : u.copyInFlight = t.copyInFlight
  deviceMode : u.deviceMode = t.deviceMode
  agrees : StagingAgrees t → StagingAgrees u
  inRange : TablesInRange t → TablesInRange u

/-- A write of the staging bank is one that marks what it changes and keeps the ranges. -/
theorem written_setStaging {t : TableStore} {b : Bank} {m : Marks}
    (hc : ∀ c : Chan, m.channels[c] = false → t.marks.channels[c] = false ∧ b.channels[c] = t.stagingBank.channels[c])
    (hg : ∀ g : Grp, m.groups[g] = false → t.marks.groups[g] = false ∧ b.groups[g] = t.stagingBank.groups[g])
    (hp : m.cycle = false → t.marks.cycle = false ∧ b.cycle = t.stagingBank.cycle)
    (hr : t.stagingBank.InRange → b.InRange) : Written t { t.setStaging b with marks := m } := by
  obtain ⟨-, commit, modeChange, copy, deviceMode⟩ := t.setStaging_rest b
  have active : ({ t.setStaging b with marks := m } : TableStore).activeBank = t.activeBank := t.setStaging_activeBank b
  have staging : ({ t.setStaging b with marks := m } : TableStore).stagingBank = b := t.setStaging_stagingBank b
  refine ⟨active, commit, modeChange, copy, deviceMode, fun h => ?_, fun h => h.setStaging (hr h.staging)⟩
  refine ⟨fun hf c hm => ?_, fun hf g hm => ?_, fun hf hm => ?_⟩ <;> rw [active, staging] <;> replace hf := copy.symm.trans hf
  · obtain ⟨hm, hb⟩ := hc c hm
    rw [hb, h.channels hf c hm]
  · obtain ⟨hm, hb⟩ := hg g hm
    rw [hb, h.groups hf g hm]
  · obtain ⟨hm, hb⟩ := hp hm
    rw [hb, h.cycle hf hm]

/-- The entries that a vector keeps where a mark is set in one place: those whose marks stay clear. -/
theorem set_unmarked {α : Type} {n : Nat} {marks : Vector Bool n} {v : Vector α n} {j k : Fin n} {x : α}
    (h : (marks.set j true)[k] = false) : marks[k] = false ∧ (v.set j x)[k] = v[k] := by
  have hne : j.val ≠ k.val := fun e => by simp [e] at h
  simp only [Fin.getElem_fin, Vector.getElem_set_ne _ _ hne] at h ⊢
  exact ⟨h, trivial⟩

theorem written_writeChannel {t : TableStore} {c : Chan} {e : ChannelEntry} (he : t.stagingBank.InRange → e.InRange) :
    Written t (t.writeChannel c e) := by
  refine written_setStaging (fun _ hd => set_unmarked hd) (fun _ hg => ⟨hg, rfl⟩) (fun hm => ⟨hm, rfl⟩) fun h =>
    ⟨fun d => ?_, h.holdoff, h.timeout, h.lossLimit⟩
  simp only [Fin.getElem_fin, Vector.getElem_set]
  split
  · exact he h
  · exact h.channels d

theorem written_writeGroup {t : TableStore} {g : Grp} {e : GroupEntry} (he : t.stagingBank.InRange → e.holdoff ≤ 255) :
    Written t (t.writeGroup g e) := by
  refine written_setStaging (fun _ hc => ⟨hc, rfl⟩) (fun _ hg => set_unmarked hg) (fun hm => ⟨hm, rfl⟩) fun h =>
    ⟨h.channels, fun g' => ?_, h.timeout, h.lossLimit⟩
  simp only [Fin.getElem_fin, Vector.getElem_set]
  split
  · exact he h
  · exact h.holdoff g'

theorem written_writeCycle {t : TableStore} {p : CycleParams} (hp : t.stagingBank.InRange → p.InRange) :
    Written t (t.writeCycle p) :=
  written_setStaging (fun _ hc => ⟨hc, rfl⟩) (fun _ hg => ⟨hg, rfl⟩) nofun fun h =>
    ⟨h.channels, h.holdoff, (hp h).timeout, (hp h).lossLimit⟩

/-- The end of a copy makes the banks equal, so that they agree under any marks (R15, R134). -/
theorem copied_agrees (t : TableStore) : StagingAgrees t.copied := by
  have active : t.copied.activeBank = t.activeBank := t.setStaging_activeBank _
  have staging : t.copied.stagingBank = t.activeBank := t.setStaging_stagingBank _
  refine ⟨fun _ c _ => ?_, fun _ g _ => ?_, fun _ _ => ?_⟩ <;> rw [active, staging]

theorem TablesInRange.copied {t : TableStore} (h : TablesInRange t) : TablesInRange t.copied := h.setStaging h.active

end Sys2Proof.Machine
end

section
/-! ### A runtime record through the acts that write it (R66 to R73, R80) -/

namespace Sys2Proof.Machine

namespace ChannelRecord.WellFormed

variable {r : ChannelRecord} {e : ChannelEntry}

/-- The conditions do not read the values that a sample alone writes (R66, R67). -/
theorem withValues {checked : Bool} (h : r.WellFormed e checked) (lastGood rateBase : Option Sample) (inWarn : Bool) :
    { r with lastGood := lastGood, rateBase := rateBase, inWarn := inWarn }.WellFormed e checked := by
  obtain ⟨window, violations, recovery, running, classes, cycle, idle, clean, suspect⟩ := h
  exact ⟨window, violations, recovery, running, classes, cycle, idle, clean, suspect⟩

theorem noted {checked : Bool} (h : r.WellFormed e checked) (o : CheckOutcome) : (notedRecord e o r).WellFormed e checked := by
  unfold notedRecord
  split
  · exact h
  · exact h.withValues ..

/-- A record at its reset values is well formed for any entry (R68). -/
theorem fresh (e : ChannelEntry) (checked : Bool) :
    (ChannelRecord.fresh (if checked = true then .clean else .idle)).WellFormed e checked := by
  cases checked <;> constructor <;> simp [ChannelRecord.fresh, countViolating]

/-- A FAULTED record of a checked channel is well formed with its counts, a recovery below the entry's, and its fault fields (R67). -/
theorem of_faulted (hs : r.state = .faulted) (hw : r.history.length ≤ e.window) (hv : r.violations = countViolating r.history)
    (hr : r.recovery < e.recovery) (hk : r.faultClasses.isSome) (hn : r.faultCycle.isSome) : r.WellFormed e true :=
  ⟨hw, hv, fun h => absurd hs h, fun _ => hr, iff_of_true hk hs, iff_of_true hn hs, by simp [hs], by simp [hs], by simp [hs]⟩

/-- A CLEAN or SUSPECT record of a checked channel is well formed with its counts, below the threshold, and without fault fields (R67). -/
theorem of_running (hs : r.state = if r.violations = 0 then .clean else .suspect) (hw : r.history.length ≤ e.window)
    (hv : r.violations = countViolating r.history) (ht : r.violations = 0 ∨ r.violations < e.threshold) (hr : r.recovery = 0)
    (hk : r.faultClasses = none) (hn : r.faultCycle = none) : r.WellFormed e true := by
  have hne : r.state ≠ .faulted := by rw [hs]; split <;> nofun
  refine ⟨hw, hv, fun _ => hr, fun h => absurd h hne, ?_, ?_, ?_, fun h => ?_, fun h => ?_⟩
  · simp [hk, hne]
  · simp [hn, hne]
  · rw [hs]; split <;> simp
  · rw [hs] at h; split at h
    · assumption
    · cases h
  · rw [hs] at h; split at h
    · cases h
    · omega

/-- What the history update leaves is within the window, and counted (R69). -/
theorem pushed_counts (r : ChannelRecord) (window : Nat) (v : Verdict) :
    (r.pushed window v).history.length ≤ window ∧ (r.pushed window v).violations = countViolating (r.pushed window v).history :=
  ⟨List.length_take_le .., rfl⟩

/-- An evaluation of a checked channel leaves its record well formed (R69 to R73). -/
theorem evaluated (h : r.WellFormed e true) (hi : e.InRange) (n : CycleNo) (k : ClassSet) :
    (evaluatedRecord r e n k).WellFormed e true := by
  obtain ⟨hw, hv⟩ := pushed_counts r e.window k.verdict
  have hpos : 0 < e.recovery := hi.recovery.1
  unfold evaluatedRecord
  dsimp only
  by_cases hf : r.state = .faulted
  · have hk : r.faultClasses.isSome := h.classes.mpr hf
    have hn : r.faultCycle.isSome := h.cycle.mpr hf
    rw [if_pos hf]
    split
    · split
      · exact .of_running rfl (Nat.zero_le _) rfl (.inl rfl) rfl rfl rfl
      · rename_i hr
        exact .of_faulted hf hw hv (Nat.lt_of_not_le hr) hk hn
    · exact .of_faulted hf hw hv hpos hk hn
  · have hk : r.faultClasses = none := by simpa [hf] using h.classes
    have hn : r.faultCycle = none := by simpa [hf] using h.cycle
    rw [if_neg hf]
    split
    · exact .of_faulted rfl hw hv hpos rfl rfl
    · rename_i ht
      exact .of_running rfl hw hv (.inr (Nat.lt_of_not_le ht)) (h.recovery hf) hk hn

end ChannelRecord.WellFormed

end Sys2Proof.Machine
end

section
/-! ### The runtime records and what keeps them, through the part's own acts (R15, R66, R67, R124) -/

namespace Sys2Proof.Machine

/-! #### What the conditions read -/

theorem DeviceMode.eq_active {m : DeviceMode} (h : m ≠ .bypass) : m = .active := by
  cases m with
  | bypass => exact absurd rfl h
  | active => rfl

/-- What is pending is read from four fields of the tables and from whether a test is pending (R124). -/
theorem PendingSound.of_fields {s t : State} (h : PendingSound s) (hc : t.tables.commit = s.tables.commit)
    (hm : t.tables.modeChange = s.tables.modeChange) (hf : t.tables.copyInFlight = s.tables.copyInFlight)
    (hd : t.tables.deviceMode = s.tables.deviceMode) (ht : t.test.pending.isSome → s.test.pending.isSome) : PendingSound t := by
  obtain ⟨one, copy, mode, test⟩ := h
  refine ⟨?_, ?_, ?_, ?_⟩
  · rw [hc, hm]; exact one
  · rw [hf, hc]; exact copy
  · rw [hm, hd]; exact mode
  · rw [hd]; exact fun hp => test (ht hp)

/-- With the tables as they were, it is the records that are to be shown well formed; a pending test may have ended. -/
theorem ChannelsSound.of_records {s t : State} (h : ChannelsSound s) (ht : t.tables = s.tables)
    (hp : t.test.pending.isSome → s.test.pending.isSome)
    (hr : ∀ c, (t.channel c).WellFormed (s.entry c) (s.checked c)) : ChannelsSound t := by
  obtain ⟨-, agrees, inRange, pending⟩ := h
  refine ⟨fun c => ?_, ht ▸ agrees, ht ▸ inRange, ?_⟩
  · rw [State.entry_congr ht, State.checked_congr ht]; exact hr c
  · refine pending.of_fields ?_ ?_ ?_ ?_ hp <;> rw [ht]

theorem ChannelsSound.congr {s t : State} (h : ChannelsSound s) (ht : t.tables = s.tables) (hc : t.channels = s.channels)
    (hp : t.test.pending.isSome → s.test.pending.isSome) : ChannelsSound t :=
  h.of_records ht hp fun c => by rw [State.channel_congr hc]; exact h.records c

theorem ChannelsSound.unchanged {s t : State} (h : ChannelsSound s) (ht : t.tables = s.tables) (hc : t.channels = s.channels)
    (hp : t.test = s.test) : ChannelsSound t := h.congr ht hc (by rw [hp]; exact id)

/-- New tables with the active bank and the device mode as they were leave the records well formed. -/
theorem ChannelsSound.withTables {s : State} (h : ChannelsSound s) {t : TableStore} (hb : t.activeBank = s.tables.activeBank)
    (hd : t.deviceMode = s.tables.deviceMode) (ha : StagingAgrees t) (hr : TablesInRange t)
    (hp : PendingSound { s with tables := t }) : ChannelsSound { s with tables := t } := by
  have he : ∀ c, ({ s with tables := t } : State).entry c = s.entry c := fun c => congrArg (fun b : Bank => b.channels[c]) hb
  refine ⟨fun c => ?_, ha, hr, hp⟩
  have hc : ({ s with tables := t } : State).checked c = s.checked c := by
    unfold State.checked
    rw [he c, hd]
  rw [he, hc]
  exact h.records c

theorem ChannelsSound.submit {s : State} (h : ChannelsSound s) (n : Option CycleNo) (b : RecordBody) :
    ChannelsSound (submit n b s) := h.unchanged (submit_tables ..) (submit_channels ..) (submit_test ..)

theorem ChannelsSound.setChannel {s : State} (h : ChannelsSound s) {c : Chan} {r : ChannelRecord}
    (hr : r.WellFormed (s.entry c) (s.checked c)) : ChannelsSound (s.setChannel c r) := by
  refine h.of_records rfl id fun d => ?_
  rw [State.setChannel_channel]
  split
  · rename_i hd; subst hd; exact hr
  · exact h.records d

theorem ChannelsSound.retrack {s : State} (h : ChannelsSound s) (k : Tracker) : ChannelsSound { s with tracker := k } :=
  h.unchanged rfl rfl rfl

theorem ChannelsSound.startTimer {s : State} (h : ChannelsSound s) : ChannelsSound (startTimer s) := h.retrack _

/-! #### Evaluations and the work on a sample (R64, R69, R75, R78) -/

theorem ChannelsSound.evaluate {s : State} (h : ChannelsSound s) {c : Chan} (hc : s.checked c = true) (n : CycleNo) (k : ClassSet)
    (v : Option Sample) : ChannelsSound (evaluate c n k v s) := by
  refine h.of_records (evaluate_tables ..) (by rw [evaluate_test]; exact id) fun d => ?_
  rw [evaluate_channel]
  split
  · rename_i hd
    subst hd
    have hr := h.records c
    rw [hc] at hr ⊢
    exact hr.evaluated (h.inRange.active.channels c) n k
  · exact h.records d

theorem ChannelsSound.staleOver {s : State} (h : ChannelsSound s) (n : CycleNo) (seen : Vector Bool 96) (l : List Chan) :
    ChannelsSound (staleOver n seen l s) := by
  induction l generalizing s with
  | nil => exact h
  | cons c l ih =>
    refine ih ?_
    split
    · rename_i ht
      simp only [takesStale, Bool.and_eq_true] at ht
      obtain ⟨⟨⟨checked, -⟩, -⟩, -⟩ := ht
      exact h.evaluate checked _ _ _
    · exact h

theorem ChannelsSound.staleTrigger {s : State} (h : ChannelsSound s) (n : CycleNo) (seen : Vector Bool 96) :
    ChannelsSound (staleTrigger n seen s) := h.staleOver n seen allChannels

theorem ChannelsSound.staleRun {s : State} (h : ChannelsSound s) (k : Nat) (n : CycleNo) : ChannelsSound (staleRun k n s) := by
  induction k generalizing n s with
  | zero => exact h
  | succ k ih => exact ih (h.staleTrigger n clearMap) (n + 1)

theorem ChannelsSound.noteValue {s : State} (h : ChannelsSound s) (c : Chan) (o : CheckOutcome) :
    ChannelsSound (noteValue c o s) := by
  have noted := h.setChannel ((h.records c).noted o)
  rw [noteValue_eq]
  split
  · exact noted.submit _ _
  · exact noted

theorem ChannelsSound.updateLastGood {s : State} (h : ChannelsSound s) (c : Chan) (o : CheckOutcome) :
    ChannelsSound (updateLastGood c o s) := by
  rw [updateLastGood_eq]
  exact h.setChannel ((h.records c).withValues ..)

theorem ChannelsSound.judge {s : State} (h : ChannelsSound s) {c : Chan} (hc : s.checked c = true) (x : SampleEntry) :
    ChannelsSound (judge c x s).1 := by
  refine ((h.noteValue c _).evaluate ?_ _ _ _).updateLastGood c _
  rw [State.checked_congr (noteValue_tables ..)]
  exact hc

theorem ChannelsSound.sampleWork {s : State} (h : ChannelsSound s) (x : SampleEntry) : ChannelsSound (sampleWork x s).1 := by
  have seen : ∀ c, ChannelsSound (s.markSeen c) := fun c => h.unchanged rfl rfl rfl
  unfold Machine.sampleWork
  split
  · exact h
  · split
    · exact h
    · rename_i c _
      split
      · exact seen c
      · rename_i hc
        split
        · exact h.unchanged (noteDuplicate_tables ..) (noteDuplicate_channels ..) (noteDuplicate_test ..)
        · have checked : (s.markSeen c).checked c = true := by
            rw [State.checked_congr (markSeen_tables ..)]; simpa using hc
          exact (seen c).judge checked x

/-! #### The tracker's acts (R31, R33, R36, R39) -/

theorem ChannelsSound.closeCycle {s : State} (h : ChannelsSound s) (k : CloseKind) : ChannelsSound (closeCycle k s) := by
  refine (h.staleTrigger s.tracker.lastCycle s.tracker.seen).congr ?_ (Vector.ext fun i hi => ?_) ?_
  · rw [closeCycle_tables, staleTrigger_tables]
  · exact closeCycle_channel k s ⟨i, hi⟩
  · rw [closeCycle_test_pending]; nofun

/-- A swap exchanges the banks: the unmarked entries are alike in both, and the marked channels' records are reset (R15, R80, R131). -/
theorem ChannelsSound.swap {s : State} (h : ChannelsSound s) (hc : s.tables.commit.isSome) (n : CycleNo) :
    ChannelsSound (swap n s) := by
  have idle : s.tables.copyInFlight = false := by
    cases hf : s.tables.copyInFlight with
    | false => rfl
    | true => rw [h.pending.copy hf] at hc; cases hc
  have htab := swap_tables n s
  have hentry : ∀ c, (Machine.swap n s).entry c = s.tables.stagingBank.channels[c] := fun c =>
    (State.entry_congr (s := { s with tables := s.tables.swapped }) htab c).trans
      (congrArg (fun b : Bank => b.channels[c]) s.tables.swapped_banks.1)
  refine ⟨fun c => ?_, ?_, ?_, ?_⟩
  · rw [swap_channel]
    split
    · rw [← freshRecord_swapped, State.freshRecord,
        ← State.checked_congr (s := { s with tables := s.tables.swapped }) (t := Machine.swap n s) htab]
      exact .fresh _ _
    · rename_i hk
      obtain ⟨hm, hmark⟩ := not_or.mp hk
      have same : (Machine.swap n s).entry c = s.entry c :=
        (hentry c).trans (h.agrees.channels idle c (Bool.eq_false_iff.mpr hmark))
      have active : s.tables.deviceMode = .active := DeviceMode.eq_active hm
      have checked : (Machine.swap n s).checked c = s.checked c := by
        unfold State.checked
        rw [same, htab, active]
        rfl
      rw [same, checked]
      exact h.records c
  · rw [htab]; exact ⟨nofun, nofun, nofun⟩
  · rw [htab]; exact h.inRange.of_banks ⟨rfl, rfl⟩
  · constructor <;> rw [htab]
    · exact .inl rfl
    · exact fun _ => rfl
    · exact fun _ => rfl
    · exact fun _ => rfl

/-- A change to BYPASS unchecks every channel, resets every record and ends a pending test (R81, R139, R166). -/
theorem ChannelsSound.madeBypass {s : State} (h : ChannelsSound s) (hc : s.tables.commit = none) (n : CycleNo) :
    ChannelsSound (madeBypass n s) := by
  have htab : (Machine.madeBypass n s).tables = { s.tables with modeChange := false, deviceMode := .bypass } := by
    rw [madeBypass_frame]
  have htest : (Machine.madeBypass n s).test.pending = none := by
    cases hp : s.test.pending with
    | none => rw [madeBypass_test_none hp, hp]
    | some p => rw [madeBypass_test_some hp]
  refine ⟨fun c => ?_, ?_, ?_, ?_⟩
  · rw [madeBypass_channel, checked_bypass (by rw [htab])]
    exact .fresh _ false
  · rw [htab]; exact ⟨h.agrees.channels, h.agrees.groups, h.agrees.cycle⟩
  · rw [htab]; exact h.inRange
  · constructor <;> rw [htab]
    · exact .inr rfl
    · exact fun _ => hc
    · nofun
    · rw [htest]; nofun

theorem ChannelsSound.modeChangeDropped {s : State} (h : ChannelsSound s) :
    ChannelsSound { s with tables := { s.tables with modeChange := false } } := by
  have ⟨_, agrees, inRange, pending⟩ := h
  exact h.withTables rfl rfl ⟨agrees.channels, agrees.groups, agrees.cycle⟩ inRange ⟨.inr rfl, pending.copy, nofun, pending.test⟩

/-- The Table Store's work at an open, by what is pending (R124, R128, R139). -/
theorem ChannelsSound.tableStoreOpen {s : State} (h : ChannelsSound s) (n : CycleNo) : ChannelsSound (tableStoreOpen n s) := by
  cases hc : s.tables.commit with
  | some k =>
    have hm : s.tables.modeChange = false := h.pending.one.resolve_left (by rw [hc]; nofun)
    rw [tableStoreOpen_commit hc hm]
    split
    · exact h.swap (by rw [hc]; rfl) n
    · exact h
  | none =>
    cases hm : s.tables.modeChange with
    | false => rw [tableStoreOpen_idle hc hm]; exact h
    | true =>
      rw [tableStoreOpen_modeChange hm hc]
      split
      · exact h.modeChangeDropped.submit _ _
      · exact (h.madeBypass hc n).submit _ _

theorem ChannelsSound.openCycle {s : State} (h : ChannelsSound s) (n : CycleNo) (i : Nat) : ChannelsSound (openCycle n i s) := by
  have begun : ChannelsSound (beginCycle n i s) := h.unchanged rfl rfl rfl
  have opened : ChannelsSound (groupsOpen (Machine.tableStoreOpen n (beginCycle n i s))) :=
    (begun.tableStoreOpen n).unchanged (groupsOpen_tables ..) (groupsOpen_channels ..) (groupsOpen_test ..)
  exact opened.startTimer

theorem ChannelsSound.openAhead {s : State} (h : ChannelsSound s) (n : CycleNo) (i : Nat) : ChannelsSound (openAhead n i s) := by
  unfold Machine.openAhead
  dsimp only
  have opened : ∀ u k m, ChannelsSound u → ChannelsSound (Machine.openCycle n i (Machine.staleRun k m u)) := fun u k m hu =>
    (hu.staleRun k m).openCycle n i
  have skipped : ChannelsSound (if 0 < skipCount n s.tracker.lastCycle then
      Machine.submit s.stamp (.seq .skip (some (skipCount n s.tracker.lastCycle)) (some (n, i))) s else s) := by
    split
    · exact h.submit _ _
    · exact h
  split
  · exact opened _ _ _ (skipped.retrack _)
  · exact (opened _ _ _ (skipped.retrack _)).submit _ _

theorem ChannelsSound.arrive {s : State} (h : ChannelsSound s) (n : CycleNo) (i : Nat) : ChannelsSound (arrive n i s).2 := by
  unfold Machine.arrive arriveUnsynced arriveSame discardWith
  split
  · split
    · exact (h.openCycle n 0).submit _ _
    · exact h.unchanged rfl rfl rfl
  · repeat' split
    · exact h.retrack _
    · exact h.submit _ _
    · exact (h.submit _ _).retrack _
    · exact (h.closeCycle _).openAhead n i
    · exact h.submit _ _
  · split
    · exact h.openAhead n i
    · exact h.submit _ _

theorem ChannelsSound.linkLoss {s : State} (h : ChannelsSound s) : ChannelsSound (linkLoss s) :=
  h.unchanged (linkLoss_tables s) (linkLoss_channels s) (linkLoss_test s)

theorem ChannelsSound.lostCycle {s : State} (h : ChannelsSound s) : ChannelsSound (lostCycle s) := by
  unfold Machine.lostCycle
  dsimp only
  have judged : ∀ m u, ChannelsSound u → ChannelsSound (Machine.staleTrigger m clearMap u) := fun m u hu =>
    hu.staleTrigger m clearMap
  split
  · exact (judged _ _ (h.retrack _)).linkLoss
  · exact (judged _ _ (h.retrack _)).startTimer

/-! #### The trip line, the end of a copy, and power-on (R108, R134, R3) -/

theorem ChannelsSound.tripLineFall {s : State} (h : ChannelsSound s) : ChannelsSound (tripLineFall s) :=
  h.unchanged (tripLineFall_tables s) (tripLineFall_channels s) (tripLineFall_test s)

theorem ChannelsSound.completeCopy {s : State} (h : ChannelsSound s) : ChannelsSound (completeCopy s) := by
  unfold Machine.completeCopy
  split
  · obtain ⟨-, commit, modeChange, -, deviceMode⟩ := s.tables.setStaging_rest s.tables.activeBank
    obtain ⟨one, -, mode, test⟩ := h.pending
    refine h.withTables (s.tables.setStaging_activeBank _) deviceMode (copied_agrees _) h.inRange.copied ⟨?_, nofun, ?_, ?_⟩
    · exact one.imp commit.trans modeChange.trans
    · exact fun hm => deviceMode.trans (mode (modeChange.symm.trans hm))
    · exact fun hp => deviceMode.trans (test hp)
  · exact h

end Sys2Proof.Machine
end

section
/-! ### The runtime records and what keeps them, through the commands (R16, R124 to R138, R158, R182) -/

namespace Sys2Proof.Machine

/-! #### Writes (R16, R17) -/

theorem pendingResult_none {t : TableStore} (h : pendingResult t = none) : t.commit = none ∧ t.modeChange = false := by
  unfold pendingResult at h
  split at h
  · cases h
  · rename_i hc
    split at h
    · cases h
    · rename_i hm; exact ⟨hc, Bool.eq_false_iff.mpr hm⟩

theorem ChannelsSound.write {s : State} (h : ChannelsSound s) {t : TableStore} (hw : Written s.tables t) :
    ChannelsSound { s with tables := t } :=
  h.withTables hw.active hw.deviceMode (hw.agrees h.agrees) (hw.inRange h.inRange)
    (h.pending.of_fields hw.commit hw.modeChange hw.copy hw.deviceMode id)

/-- A write that is accepted has every item in range (R16). -/
theorem ChannelsSound.writeItems {s : State} (h : ChannelsSound s) {r : Nat → Nat → Bool} {l : FieldList}
    {w : TableStore → TableStore} (hw : (∀ i ∈ l.items, r i.number i.value = true) → Written s.tables (w s.tables)) :
    ChannelsSound (writeItems r l w s).state := by
  unfold Machine.writeItems
  repeat' split
  · exact h
  · exact h
  · exact h
  · rename_i hr; exact h.write (hw (firstRefused_none hr))

theorem ChannelsSound.runWriteChannel {s : State} (h : ChannelsSound s) (args : List Byte) :
    ChannelsSound (runWriteChannel args s).state := by
  unfold Machine.runWriteChannel
  repeat' split
  · exact h
  · rename_i l c hl _
    refine h.writeItems fun hr => written_writeChannel fun hb => ?_
    exact List.foldlRecOn l.items _ (hb.channels c) fun _ he i hi =>
      writeChannelField_inRange he (fieldListOf_fits hl i hi) (hr i hi)
  · exact h

theorem ChannelsSound.runWriteGroup {s : State} (h : ChannelsSound s) (args : List Byte) :
    ChannelsSound (runWriteGroup args s).state := by
  unfold Machine.runWriteGroup
  repeat' split
  · exact h
  · rename_i l g hl _
    refine h.writeItems fun _ => written_writeGroup fun hb => ?_
    exact List.foldlRecOn (motive := fun e : GroupEntry => e.holdoff ≤ 255) l.items _ (hb.holdoff g) fun _ he i hi =>
      writeGroupField_holdoff he (fieldListOf_fits hl i hi)
  · exact h

theorem ChannelsSound.runWriteCycle {s : State} (h : ChannelsSound s) (args : List Byte) :
    ChannelsSound (runWriteCycle args s).state := by
  unfold Machine.runWriteCycle
  split
  · rename_i l hl
    refine h.writeItems fun hr => written_writeCycle fun hb => ?_
    exact List.foldlRecOn l.items _ ⟨hb.timeout, hb.lossLimit⟩ fun _ hp i hi =>
      writeCycleField_inRange hp (fieldListOf_fits hl i hi) (hr i hi)
  · exact h

/-! #### Pending changes and tests (R125, R130, R138, R158) -/

theorem ChannelsSound.commitTarget {s : State} (h : ChannelsSound s) {k : Option CommitTarget}
    (hk : k.isSome → s.tables.modeChange = false ∧ s.tables.copyInFlight = false) :
    ChannelsSound { s with tables := { s.tables with commit := k } } := by
  have ⟨_, ⟨channels, groups, cycle⟩, inRange, ⟨_, _, mode, test⟩⟩ := h
  refine h.withTables rfl rfl ⟨channels, groups, cycle⟩ inRange ⟨?_, fun hf => ?_, mode, test⟩
  · cases k with
    | none => exact .inl rfl
    | some k => exact .inr (hk rfl).1
  · cases k with
    | none => rfl
    | some k => exact absurd hf (by rw [(hk rfl).2]; decide)

theorem ChannelsSound.runCommit {s : State} (h : ChannelsSound s) (args : List Byte) :
    ChannelsSound (runCommit args s).state := by
  unfold Machine.runCommit
  repeat' split
  · exact h
  · exact h
  · exact h
  · exact h
  · exact h
  · rename_i hf _ hp _ _ _ _
    exact h.commitTarget fun _ => ⟨(pendingResult_none hp).2, Bool.eq_false_iff.mpr hf⟩

theorem ChannelsSound.runCancel {s : State} (h : ChannelsSound s) (args : List Byte) :
    ChannelsSound (runCancel args s).state := by
  unfold Machine.runCancel
  split
  · exact h
  · exact h.commitTarget nofun

theorem ChannelsSound.runBypass {s : State} (h : ChannelsSound s) (args : List Byte) :
    ChannelsSound (runBypass args s).state := by
  unfold Machine.runBypass
  repeat' split
  · exact h
  · exact h
  · exact h
  · exact h
  · rename_i hm _ hp _
    have ⟨_, ⟨channels, groups, cycle⟩, inRange, ⟨_, copy, _, test⟩⟩ := h
    have active : s.tables.deviceMode = .active := DeviceMode.eq_active hm
    exact h.withTables rfl rfl ⟨channels, groups, cycle⟩ inRange ⟨.inl (pendingResult_none hp).1, copy, fun _ => active, test⟩

theorem ChannelsSound.runTestCommand {s : State} (h : ChannelsSound s) (args : List Byte) :
    ChannelsSound (runTestCommand args s).state := by
  unfold Machine.runTestCommand
  repeat' split
  · exact h
  · exact h
  · exact h
  · exact h
  · exact h.congr rfl rfl nofun
  · rename_i hm _ _ _ _
    obtain ⟨records, agrees, inRange, ⟨one, copy, mode, -⟩⟩ := h
    exact ⟨records, agrees, inRange, ⟨one, copy, mode, fun _ => DeviceMode.eq_active hm⟩⟩

theorem ChannelsSound.runTestResult {s : State} (h : ChannelsSound s) (args : List Byte) :
    ChannelsSound (runTestResult args s).state := by
  unfold Machine.runTestResult
  repeat' split
  all_goals exact h.congr rfl rfl id

/-! #### Groups and resets (R110, R114, R115, R182) -/

@[simp] theorem tryRearm_channels (how : RearmHow) (g : Grp) (s : State) : (tryRearm how g s).1.channels = s.channels := by
  unfold tryRearm; repeat' split
  all_goals simp

@[simp] theorem tryRearm_test (how : RearmHow) (g : Grp) (s : State) : (tryRearm how g s).1.test = s.test := by
  unfold tryRearm; repeat' split
  all_goals simp

theorem ChannelsSound.tryRearm {s : State} (h : ChannelsSound s) (how : RearmHow) (g : Grp) :
    ChannelsSound (tryRearm how g s).1 := h.unchanged (tryRearm_tables ..) (tryRearm_channels ..) (tryRearm_test ..)

theorem ChannelsSound.rearmOver {s : State} (h : ChannelsSound s) (l : List Grp) : ChannelsSound (rearmOver l s).1 := by
  induction l generalizing s with
  | nil => exact h
  | cons g l ih => exact ih (h.tryRearm .command g)

theorem ChannelsSound.runTrip {s : State} (h : ChannelsSound s) (args : List Byte) : ChannelsSound (runTrip args s).state := by
  unfold Machine.runTrip
  repeat' split
  · exact h
  · exact h
  · exact h.unchanged (tripGroups_tables ..) (tripGroups_channels ..) (tripGroups_test ..)

theorem ChannelsSound.runRearm {s : State} (h : ChannelsSound s) (args : List Byte) : ChannelsSound (runRearm args s).state := by
  unfold Machine.runRearm
  split
  · exact h
  · exact h.tryRearm .command _
  · dsimp only; exact h.rearmOver allGroups

theorem ChannelsSound.of_core {s t : State} (h : ChannelsSound s) (hc : t.core = s.core) : ChannelsSound t := by
  have tables : t.tables = s.tables := (congrArg State.tables hc :)
  have channels : t.channels = s.channels := (congrArg State.channels hc :)
  have test : t.test = s.test := (congrArg State.test hc :)
  exact h.unchanged tables channels test

/-- At power-on every entry is at its default, every mark clear, every record IDLE and nothing pending (R3, R6, R14, R68). -/
theorem channelsSound_reset : ChannelsSound .reset := by
  have channels : ∀ c : Chan, Bank.default.channels[c] = .default := fun c => by simp [Bank.default]
  have groups : ∀ g : Grp, Bank.default.groups[g] = .default := fun g => by simp [Bank.default]
  have entry : ChannelEntry.default.InRange := ⟨by decide, by decide, by decide, by decide, by decide, by decide⟩
  have bank : Bank.default.InRange :=
    ⟨fun c => by rw [channels]; exact entry, fun g => by rw [groups]; decide, by decide, by decide⟩
  have record : ∀ c : Chan, State.reset.channel c = .fresh .idle := fun c => by simp [State.reset, State.channel]
  refine ⟨fun c => ?_, ⟨fun _ _ _ => rfl, fun _ _ _ => rfl, fun _ _ => rfl⟩, ⟨bank, bank⟩, ⟨.inl rfl, nofun, nofun, nofun⟩⟩
  rw [record, checked_bypass rfl]
  exact .fresh _ false

theorem resetDeviceOp_core (s : State) : (resetDeviceOp s).core = State.reset.core := rfl

theorem resetRuntimeOp_channel (s : State) (c : Chan) : (resetRuntimeOp s).channel c = s.freshRecord c := by
  have channels : (resetRuntimeOp s).channels = (resetAllRecords s).channels := rfl
  rw [State.channel_congr channels, resetAllRecords_channel]

theorem ChannelsSound.resetRuntime {s : State} (h : ChannelsSound s) : ChannelsSound (resetRuntimeOp s) := by
  have test : (resetRuntimeOp s).test = s.test := by rw [resetRuntimeOp_frame]
  refine h.of_records (resetRuntimeOp_tables s) (by rw [test]; exact id) fun c => ?_
  rw [resetRuntimeOp_channel, State.freshRecord]
  exact .fresh _ _

theorem ChannelsSound.runReset {s : State} (h : ChannelsSound s) (args : List Byte) : ChannelsSound (runReset args s).state := by
  unfold Machine.runReset
  split <;> rename_i hs
  · rw [runResetRuntime, if_pos hs]; exact h.resetRuntime
  · rw [runResetLog, if_pos hs]; exact h.unchanged (clearLog_tables s) (clearLog_channels s) (clearLog_test s)
  · rw [runResetDevice, if_pos hs]; exact channelsSound_reset.of_core (resetDeviceOp_core s)
  · exact h

/-! #### Every command, and every row -/

/-- A command that leaves the tables, the records and the test record keeps the conditions; the rest are taken one by one. -/
theorem ChannelsSound.command {s : State} (h : ChannelsSound s) {code : Byte} {run : List Byte → State → Answer}
    (hr : (code, run) ∈ commandTable) (args : List Byte) : ChannelsSound (run args s).state := by
  simp only [commandTable, List.mem_cons, Prod.mk.injEq, List.not_mem_nil, or_false] at hr
  rcases hr with ⟨-, rfl⟩ | ⟨-, rfl⟩ | ⟨-, rfl⟩ | ⟨-, rfl⟩ | ⟨-, rfl⟩ | ⟨-, rfl⟩ | ⟨-, rfl⟩ | ⟨-, rfl⟩ | ⟨-, rfl⟩ | ⟨-, rfl⟩ |
    ⟨-, rfl⟩ | ⟨-, rfl⟩ | ⟨-, rfl⟩ | ⟨-, rfl⟩ | ⟨-, rfl⟩ | ⟨-, rfl⟩ | ⟨-, rfl⟩ | ⟨-, rfl⟩ | ⟨-, rfl⟩ | ⟨-, rfl⟩ | ⟨-, rfl⟩
  · unfold runIdentify; split <;> exact h
  · unfold runStatus; split <;> exact h
  · unfold runReadChannel; repeat' split
    all_goals exact h
  · exact h.runWriteChannel args
  · unfold runReadGroup; repeat' split
    all_goals exact h
  · exact h.runWriteGroup args
  · unfold runReadCycle; repeat' split
    all_goals exact h
  · exact h.runWriteCycle args
  · exact h.runCommit args
  · exact h.runCancel args
  · exact h.runBypass args
  · unfold runChannelState; repeat' split
    all_goals exact h
  · unfold runGroupState; repeat' split
    all_goals exact h
  · exact h.runTrip args
  · exact h.runRearm args
  · unfold runLogRead; repeat' split
    all_goals exact h
  · unfold runLogAck; repeat' split
    all_goals exact h.unchanged rfl rfl rfl
  · unfold runLogClear; split <;> exact h.unchanged rfl rfl rfl
  · exact h.runTestCommand args
  · exact h.runTestResult args
  · exact h.runReset args

theorem channelsSound_invariant : Invariant ChannelsSound where
  onCore := ChannelsSound.of_core
  onReset := channelsSound_reset
  onArrive n i _ h := h.arrive n i
  onSample x _ h := h.sampleWork x
  onClose k _ _ h := h.closeCycle k
  onLostCycle _ h := h.lostCycle
  onLinkLoss _ h := h.linkLoss
  onTripLine h := h.tripLineFall
  onCopy h := h.completeCopy
  onCommand hm args _ h := h.command hm args

/-- Settles O60: the conditions are an invariant of the part's own acts, and so of every step. -/
theorem runtimeRecordsStaySound : Obligations.RuntimeRecordsStaySound := by
  unfold Obligations.RuntimeRecordsStaySound
  exact fun _ _ => channelsSound_invariant.onStep

end Sys2Proof.Machine
end

section
/-! ### The readiness of a group (R112) -/

namespace Sys2Proof.Machine

/-- The first channel with a property is the least that has it. -/
theorem find_allChannels_eq_some {p : Chan → Bool} {c : Chan} :
    allChannels.find? p = some c ↔ p c = true ∧ ∀ d : Chan, p d = true → c ≤ d := by
  rw [allChannels, List.find?_eq_some_iff_getElem]
  refine and_congr_right fun _ => ⟨?_, fun least => ⟨c.val, by simp, by simp, fun j hj => ?_⟩⟩
  · rintro ⟨i, hi, rfl, before⟩ d hd
    by_contra hlt
    have := before d.val (by simpa [Fin.lt_def] using hlt)
    simp [hd] at this
  · rw [List.getElem_finRange, Bool.not_eq_true', Bool.eq_false_iff]
    exact fun hp => absurd (least _ hp) (by simpa [Fin.lt_def] using hj)

/-- Channel c is a GUARD member of group g, and FAULTED: what the first condition forbids (R10, R112). -/
def FaultedMember (s : State) (g : Grp) (c : Chan) : Prop :=
  (s.entry c).group = some g ∧ (s.entry c).mode = .guard ∧ (s.channel c).state = .faulted

/-- The second condition: the group is not pin_bound, or TRIP_N is high (R112). -/
abbrev PinHolds (s : State) (g : Grp) : Prop := (s.groupEntry g).pinBound = false ∨ s.tripHigh = true

/-- The third condition: the group is not link_bound, or the link is synchronised (R112). -/
abbrev LinkHolds (s : State) (g : Grp) : Prop := (s.groupEntry g).linkBound = false ∨ s.tracker.state ≠ .nosync

theorem faultedMember_iff (s : State) (g : Grp) (c : Chan) :
    (s.guardMember g c && (s.channel c).state == .faulted) = true ↔ FaultedMember s g c := by
  simp [State.guardMember, FaultedMember, and_assoc]

/-- The first condition decides where a member is FAULTED, and the other three in their order where none is (R112). -/
theorem failedCondition_eq (s : State) (g : Grp) :
    failedCondition s g =
      ((allChannels.find? fun c => s.guardMember g c && (s.channel c).state == .faulted).map .member).or
        (if PinHolds s g then
          if LinkHolds s g then if (s.group g).holdoffLeft = 0 then none else some (.holdoff (s.group g).holdoffLeft)
          else some .link
        else some .pin) := by
  have pin : ((s.groupEntry g).pinBound && !s.tripHigh) = true ↔ ¬ PinHolds s g := by simp [PinHolds]
  have link : ((s.groupEntry g).linkBound && s.tracker.state == .nosync) = true ↔ ¬ LinkHolds s g := by simp [LinkHolds]
  unfold failedCondition
  split <;> rename_i hd <;> rw [hd]
  · rfl
  · simp only [pin, link, Option.map_none, Option.none_or, ne_eq, ite_not]

/-- With no FAULTED member the other three conditions decide, in their order (R112). -/
theorem failedCondition_of_no_member {s : State} {g : Grp} (h : ∀ c : Chan, ¬ FaultedMember s g c) :
    failedCondition s g =
      if PinHolds s g then
        if LinkHolds s g then if (s.group g).holdoffLeft = 0 then none else some (.holdoff (s.group g).holdoffLeft)
        else some .link
      else some .pin := by
  rw [failedCondition_eq, List.find?_eq_none.mpr fun c _ hc => h c ((faultedMember_iff s g c).mp hc)]
  rfl

theorem failedCondition_eq_member_iff (s : State) (g : Grp) (c : Chan) :
    failedCondition s g = some (.member c) ↔ FaultedMember s g c ∧ ∀ d : Chan, FaultedMember s g d → c ≤ d := by
  have least := find_allChannels_eq_some (p := fun c => s.guardMember g c && (s.channel c).state == .faulted) (c := c)
  simp only [faultedMember_iff] at least
  rw [← least, failedCondition_eq]
  cases allChannels.find? fun c => s.guardMember g c && (s.channel c).state == .faulted with
  | some d => simp
  | none =>
    simp only [Option.map_none, Option.none_or]
    split_ifs <;> simp

/-- A group is ready exactly when all four conditions hold (R112). -/
theorem failedCondition_eq_none_iff (s : State) (g : Grp) :
    failedCondition s g = none ↔
      (∀ c : Chan, ¬ FaultedMember s g c) ∧ PinHolds s g ∧ LinkHolds s g ∧ (s.group g).holdoffLeft = 0 := by
  by_cases h : ∀ c : Chan, ¬ FaultedMember s g c
  · rw [failedCondition_of_no_member h]
    split_ifs with pin link left
    · exact iff_of_true rfl ⟨h, pin, link, left⟩
    · exact iff_of_false nofun fun ⟨_, _, _, done⟩ => left done
    · exact iff_of_false nofun fun ⟨_, _, holds, _⟩ => link holds
    · exact iff_of_false nofun fun ⟨_, holds, _⟩ => pin holds
  · refine ⟨fun ready => absurd (fun c hc => ?_) h, fun ⟨unfaulted, _⟩ => absurd unfaulted h⟩
    rw [failedCondition_eq, Option.or_eq_none_iff, Option.map_eq_none_iff] at ready
    exact List.find?_eq_none.mp ready.1 c (List.mem_finRange c) ((faultedMember_iff s g c).mpr hc)

/-- Settles O41, from the least FAULTED member and from the order of the other three conditions. -/
theorem failedConditionIsTheFirstOfFour : Obligations.FailedConditionIsTheFirstOfFour := by
  unfold Obligations.FailedConditionIsTheFirstOfFour
  intro s g
  refine ⟨failedCondition_eq_member_iff s g, fun h => ?_⟩
  rw [failedCondition_of_no_member h]
  refine ⟨fun pin => if_neg pin, fun pin link => ?_, fun pin link left => ?_, fun pin link done => ?_⟩
  · rw [if_pos pin, if_neg link]
  · rw [if_pos pin, if_pos link, if_neg left]
  · rw [if_pos pin, if_pos link, if_pos done]

end Sys2Proof.Machine
end

section
/-! ### The external trip line and TRIP (R104 to R106, R108, R110) -/

namespace Sys2Proof.Machine

/-- The part with TRIP_N sampled low (R108). -/
def sampledLow (s : State) : State := { s with tripHigh := false }

/-- A fall is one run of requests to the pin_bound groups, behind the sample (R108). -/
theorem tripLineFall_high {s : State} (high : s.tripHigh = true) :
    tripLineFall s = tripGroups .pin ((sampledLow s).groupsWith (·.pinBound)) (sampledLow s) := if_pos high

theorem tripLineFall_low {s : State} (low : s.tripHigh = false) : tripLineFall s = s := if_neg (by rw [low]; decide)

/-- Settles O36, by the level before the sample and by the device mode. -/
theorem tripLineFallRequestsPinBoundGroups : Obligations.TripLineFallRequestsPinBoundGroups := by
  unfold Obligations.TripLineFallRequestsPinBoundGroups
  refine fun s => ⟨rfl, fun low => congrArg act (tripLineFall_low low), fun high hm => congrArg act ?_, fun high hm =>
    ⟨_, congrArg act (tripLineFall_high high), ?_, fun g => ?_, fun room => ⟨tripGroups_keeps _ _ (sampledLow s), ?_⟩⟩⟩
  · exact (tripLineFall_high high).trans (tripGroups_bypass (s := sampledLow s) hm ..)
  · rw [tripGroups_frame]
    rfl
  · exact (tripGroups_groupsWith_group (sampledLow s) .pin (·.pinBound) g).trans (if_congr (and_iff_right hm) rfl rfl)
  · exact tripGroups_groupsWith_newRecords (s := sampledLow s) room .pin (·.pinBound)

theorem allGroups_nodup : allGroups.Nodup := List.nodup_finRange 8

/-- An argument of TRIP or REARM that is in range names the groups whose number it is, and all eight where it is 255 (R110, R180). -/
theorem groupArgOf_byte {b : Byte} (h : b.toNat < 8 ∨ b = 255) :
    ∃ a, groupArgOf [b] = some a ∧ a.groups = allGroups.filter fun g => b == 255 || b.toNat == g.val := by
  have single : ∀ g : Grp, [g] = allGroups.filter fun k => g.val == k.val := by decide
  rcases h with h | rfl
  · have hb : b ≠ 255 := fun e => by subst e; exact absurd h (by decide)
    refine ⟨.one ⟨b.toNat, h⟩, by rw [groupArgOf, if_neg hb, grpOf, dif_pos h]; rfl, ?_⟩
    rw [beq_false_of_ne hb]
    exact single ⟨b.toNat, h⟩
  · exact ⟨.all, rfl, by decide⟩

theorem tripItemOf_eq (s : State) (g : Grp) :
    tripItemOf s g = if (s.group g).state = .armed then .tripped else .restarted := by
  unfold tripItemOf
  split <;> rename_i h <;> rw [h] <;> rfl

/-- Settles O37: TRIP is one run of requests to the groups it names. -/
theorem tripCommandRequestsItsGroups : Obligations.TripCommandRequestsItsGroups := by
  unfold Obligations.TripCommandRequestsItsGroups
  intro s c rest b hh ha hb
  obtain ⟨a, harg, named⟩ := groupArgOf_byte hb
  have run : runTrip c.args (taken s rest) =
      if s.tables.deviceMode = .bypass then refuse (taken s rest) .mode
      else ⟨tripGroups .command a.groups (taken s rest), .ok, .tripItems (a.groups.map (tripItemOf (taken s rest)))⟩ := by
    rw [ha, runTrip, harg]
    rfl
  refine ⟨fun hm => takeHead_of hh (hasCode_of hh) (run.trans (if_pos hm)), fun hm => ?_⟩
  have carried := takeHead_of hh (hasCode_of hh) (run.trans (if_neg (by rw [hm]; decide)))
  have nodup : a.groups.Nodup := named ▸ allGroups_nodup.filter _
  have length : a.groups.length ≤ 8 := named ▸ (List.length_filter_le ..)
  refine ⟨tripGroups .command a.groups (taken s rest), ?_, ?_, fun g => ?_, fun room => ⟨tripGroups_keeps _ _ (taken s rest), ?_⟩⟩
  · rw [← named]
    simp only [← tripItemOf_eq]
    exact carried
  · rw [tripGroups_frame]
    rfl
  · have listed : g ∈ a.groups ↔ b = 255 ∨ b.toNat = g.val := by rw [named]; simp [allGroups]
    exact (tripGroups_group (s := taken s rest) hm .command _ nodup g).trans (if_congr listed rfl rfl)
  · refine (tripGroups_newRecords (s := taken s rest) hm .command _ nodup (Nat.add_le_add room length)).trans ?_
    rw [named, List.filter_filter, tripRecords, if_neg (by rw [hm]; decide)]
    exact congrArg (List.map _) (List.filter_congr fun g _ => Bool.and_comm ..)

end Sys2Proof.Machine
end

section
/-! ### Rearming the ready groups of a list, at an open and by REARM (R103, R112 to R115) -/

namespace Sys2Proof.Machine

/-- A rearm of the groups with a property takes this one: it is TRIPPED, has the property, and is ready (R112 to R115). -/
def rearms (p : GroupEntry → Bool) (s : State) (g : Grp) : Bool :=
  (s.group g).state == .tripped && p (s.groupEntry g) && (failedCondition s g).isNone

theorem rearms_iff (p : GroupEntry → Bool) (s : State) (g : Grp) :
    rearms p s g = true ↔ (s.group g).state = .tripped ∧ p (s.groupEntry g) = true ∧ failedCondition s g = none := by
  simp [rearms, and_assoc]

/-- The groups of a list in order, each rearmed where it is to be (R113, R115). -/
def rearmEach (how : RearmHow) (p : GroupEntry → Bool) : List Grp → State → State
  | [], s => s
  | g :: rest, s => rearmEach how p rest (if rearms p s g then rearmGroup how g s else s)

/-- Auto-rearm is the rearm of the groups with auto_rearm yes (R113). -/
theorem autoRearmOver_eq (l : List Grp) (s : State) : autoRearmOver l s = rearmEach .auto (·.autoRearm) l s := by
  induction l generalizing s with
  | nil => rfl
  | cons g l ih => simp only [autoRearmOver, rearmEach, rearms_iff, ih]

/-! #### What a run of rearms leaves -/

section
variable {how : RearmHow} {p : GroupEntry → Bool} {s : State} {l : List Grp}

theorem rearms_rearmGroup {g h : Grp} (hne : g ≠ h) : rearms p (rearmGroup how g s) h = rearms p s h := by
  unfold rearms
  rw [rearmGroup_group, if_neg hne, failedCondition_rearmGroup hne, State.groupEntry_congr (rearmGroup_tables ..)]

theorem rearmEach_frame (how : RearmHow) (p : GroupEntry → Bool) (l : List Grp) (s : State) :
    rearmEach how p l s =
      { s with groups := (rearmEach how p l s).groups, faultLow := (rearmEach how p l s).faultLow, log := (rearmEach how p l s).log,
               alertSlot := (rearmEach how p l s).alertSlot } := by
  induction l generalizing s with
  | nil => rfl
  | cons g l ih =>
    rw [rearmEach, ih]
    split <;> rfl

/-- Each group that is to be rearmed becomes ARMED, and the others stand. -/
theorem rearmEach_group (hl : l.Nodup) (h : Grp) :
    (rearmEach how p l s).group h = if h ∈ l ∧ rearms p s h = true then .armed else s.group h := by
  induction l generalizing s with
  | nil => simp [rearmEach]
  | cons a l ih =>
    obtain ⟨ha, hl⟩ := List.nodup_cons.mp hl
    rw [rearmEach, ih hl]
    by_cases hah : a = h
    · subst hah
      split <;> rename_i hr <;> simp [ha, hr, rearmGroup_group]
    · obtain ⟨asked, stands⟩ : rearms p (if rearms p s a then rearmGroup how a s else s) h = rearms p s h ∧
          (if rearms p s a then rearmGroup how a s else s).group h = s.group h := by
        split
        · exact ⟨rearms_rearmGroup hah, by rw [rearmGroup_group, if_neg hah]⟩
        · exact ⟨rfl, rfl⟩
      rw [asked, stands]
      simp [Ne.symm hah]

/-- A group that is still TRIPPED was so before. -/
theorem tripped_of_rearmEach (hl : l.Nodup) {h : Grp} (ht : ((rearmEach how p l s).group h).state = .tripped) :
    (s.group h).state = .tripped := by
  rw [rearmEach_group hl] at ht
  split at ht
  · cases ht
  · exact ht

theorem rearmEach_keeps (how : RearmHow) (p : GroupEntry → Bool) (l : List Grp) (s : State) :
    KeepsRecords s.log (rearmEach how p l s).log := by
  induction l generalizing s with
  | nil => exact .refl _
  | cons a l ih =>
    refine KeepsRecords.trans ?_ (ih _)
    split
    · exact submit_keeps ..
    · exact .refl _

/-- The records of a run of rearms, where the log has room for all: one REARM record for each group rearmed, in order (R112). -/
theorem rearmEach_newRecords (hl : l.Nodup) (room : s.log.records.length + l.length ≤ 64) :
    newRecords s.log (rearmEach how p l s).log = (l.filter (rearms p s)).map fun g => (s.stamp, .rearm g how) := by
  induction l generalizing s with
  | nil => simp [rearmEach, newRecords]
  | cons a l ih =>
    obtain ⟨ha, hl⟩ := List.nodup_cons.mp hl
    rw [List.length_cons] at room
    rw [rearmEach]
    by_cases hr : rearms p s a = true
    · have log : (rearmGroup how a s).log = (submit s.stamp (.rearm a how) s).log := rfl
      have rest : l.filter (rearms p (rearmGroup how a s)) = l.filter (rearms p s) :=
        List.filter_congr fun g hg => rearms_rearmGroup fun e => ha (e ▸ hg)
      have stamp : (rearmGroup how a s).stamp = s.stamp := State.stamp_congr (rearmGroup_tracker ..)
      rw [if_pos hr, newRecords_append (log ▸ submit_keeps ..) (rearmEach_keeps ..), ih hl, rest, stamp, log,
        newRecords_submit (by omega), List.filter_cons_of_pos hr, List.map_cons, List.singleton_append]
      rw [log, submit_log_below (by omega)]
      simp; omega
    · rw [if_neg hr, ih hl (by omega), List.filter_cons_of_neg hr]

/-- FAULT_N stays as it was where no group is rearmed, and stays low behind a rearm only if a group is still TRIPPED (R103, R112). -/
theorem rearmEach_faultLow (hl : l.Nodup) :
    (rearmEach how p l s).faultLow = true ↔
      s.faultLow = true ∧
        ((∃ h : Grp, ((rearmEach how p l s).group h).state = .tripped) ∨ (rearmEach how p l s).groups = s.groups) := by
  induction l generalizing s with
  | nil => simp [rearmEach]
  | cons a l ih =>
    obtain ⟨ha, hl⟩ := List.nodup_cons.mp hl
    rw [rearmEach]
    by_cases hr : rearms p s a = true
    · rw [if_pos hr, ih hl]
      have low : (rearmGroup how a s).faultLow = true ↔
          s.faultLow = true ∧ ∃ h : Grp, ((rearmGroup how a s).group h).state = .tripped := by
        rw [← anyTripped_iff, ← Bool.and_eq_true]
        rfl
      have still (h : ∃ g : Grp, ((rearmEach how p l (rearmGroup how a s)).group g).state = .tripped) :
          ∃ g : Grp, ((rearmGroup how a s).group g).state = .tripped := h.imp fun _ => tripped_of_rearmEach hl
      have changed : (rearmEach how p l (rearmGroup how a s)).groups ≠ s.groups := fun e => by
        obtain ⟨tripped, -, -⟩ := (rearms_iff p s a).mp hr
        rw [← State.group_congr e] at tripped
        have := tripped_of_rearmEach hl tripped
        rw [rearmGroup_group, if_pos rfl] at this
        cases this
      rw [low]
      refine ⟨fun ⟨⟨was, before⟩, after⟩ => ⟨was, .inl ?_⟩, fun ⟨was, after⟩ => ?_⟩
      · refine after.elim id fun e => before.imp fun g hg => ?_
        rw [State.group_congr e]; exact hg
      · have after := after.resolve_right changed
        exact ⟨⟨was, still after⟩, .inl after⟩
    · rw [if_neg hr, ih hl]

end

/-! #### REARM (R114, R115) -/

/-- What REARM finds or does for a group, by its state and by what keeps it from being ready (R114). -/
def rearmItemOf (s : State) (g : Grp) : RearmItem :=
  if (s.group g).state = .armed then .alreadyArmed
  else match failedCondition s g with
    | none => .rearmed
    | some why => .notReady why

theorem tryRearm_eq (how : RearmHow) (g : Grp) (s : State) :
    tryRearm how g s = (if rearms (fun _ => true) s g then rearmGroup how g s else s, rearmItemOf s g) := by
  unfold tryRearm rearms rearmItemOf
  split <;> rename_i hs
  · simp [hs]
  · cases failedCondition s g <;> simp [hs]

theorem rearmItemOf_rearmGroup {how : RearmHow} {g h : Grp} {s : State} (hne : g ≠ h) :
    rearmItemOf (rearmGroup how g s) h = rearmItemOf s h := by
  unfold rearmItemOf
  rw [rearmGroup_group, if_neg hne, failedCondition_rearmGroup hne]

/-- REARM over a list is the rearm of its ready groups, and the items are those of the state before it: the rearm of one group changes
no other's (R115). -/
theorem rearmOver_eq {l : List Grp} (hl : l.Nodup) (s : State) :
    rearmOver l s = (rearmEach .command (fun _ => true) l s, l.map (rearmItemOf s)) := by
  induction l generalizing s with
  | nil => rfl
  | cons a l ih =>
    obtain ⟨ha, hl⟩ := List.nodup_cons.mp hl
    have items : l.map (rearmItemOf (if rearms (fun _ => true) s a then rearmGroup .command a s else s)) = l.map (rearmItemOf s) := by
      split
      · exact List.map_congr_left fun g hg => rearmItemOf_rearmGroup fun e => ha (e ▸ hg)
      · rfl
    simp only [rearmOver, tryRearm_eq, ih hl, items, rearmEach, List.map_cons]

theorem groupArgOf_grp (g : Grp) : groupArgOf [BitVec.ofNat 8 g.val] = some (.one g) := by
  revert g
  decide

/-- REARM of one group is its treatment (R114). -/
theorem exec_rearm_one {s : State} {c : Command} {rest : List Command} (hh : AtHead s c rest 0x33) {g : Grp}
    (ha : c.args = [BitVec.ofNat 8 g.val]) {u : State} {i : RearmItem} (ht : tryRearm .command g (taken s rest) = (u, i)) :
    exec .rearm s = answers c i.status (.rearmItem i) u :=
  takeHead_of (a := ⟨u, i.status, .rearmItem i⟩) hh (hasCode_of hh) (by rw [ha, runRearm, groupArgOf_grp]; simp only [ht])

theorem runRearm_all (s : State) :
    runRearm [255] s =
      ⟨rearmEach .command (fun _ => true) allGroups s, .ok, .rearmItems (allGroups.map (rearmItemOf s))⟩ := by
  have all : groupArgOf [255] = some .all := rfl
  simp only [runRearm, all, rearmOver_eq allGroups_nodup]

/-- REARM ALL is the rearm of the ready groups (R115). -/
theorem exec_rearm_all {s : State} {c : Command} {rest : List Command} (hh : AtHead s c rest 0x33) (ha : c.args = [255]) :
    exec .rearm s = answers c .ok (.rearmItems (allGroups.map (rearmItemOf s)))
      (rearmEach .command (fun _ => true) allGroups (taken s rest)) := by
  have items : rearmItemOf (taken s rest) = rearmItemOf s := rfl
  have run : runRearm c.args (taken s rest) =
      ⟨rearmEach .command (fun _ => true) allGroups (taken s rest), .ok, .rearmItems (allGroups.map (rearmItemOf s))⟩ := by
    rw [ha, runRearm_all, items]
  have carried := takeHead_of hh (hasCode_of hh) run
  dsimp only at carried
  exact carried

end Sys2Proof.Machine
end

section
/-! ### REARM, and the Group Controller at an open (R103, R111 to R115) -/

namespace Sys2Proof.Machine

/-- With one group made ARMED a group is TRIPPED exactly where another one was. -/
theorem anyTripped_setGroup_armed (s : State) (g : Grp) :
    (s.setGroup g .armed).anyTripped = true ↔ ∃ h : Grp, h ≠ g ∧ (s.group h).state = .tripped := by
  rw [anyTripped_iff]
  refine exists_congr fun h => ?_
  rw [State.setGroup_group]
  by_cases hg : g = h
  · rw [if_pos hg]
    exact iff_of_false nofun fun ⟨hne, _⟩ => hne hg.symm
  · rw [if_neg hg, and_iff_right (Ne.symm hg)]

theorem tryRearm_armed {s : State} {g : Grp} (ha : (s.group g).state = .armed) (how : RearmHow) :
    tryRearm how g s = (s, .alreadyArmed) := by
  rw [tryRearm, ha]

theorem tryRearm_ready {s : State} {g : Grp} (ht : (s.group g).state = .tripped) (hr : failedCondition s g = none) (how : RearmHow) :
    tryRearm how g s = (rearmGroup how g s, .rearmed) := by
  rw [tryRearm, ht]
  simp only [hr]

theorem tryRearm_unready {s : State} {g : Grp} {why : FailedCondition} (ht : (s.group g).state = .tripped)
    (hw : failedCondition s g = some why) (how : RearmHow) : tryRearm how g s = (s, .notReady why) := by
  rw [tryRearm, ht]
  simp only [hw]

/-- Settles O38: REARM of one group by its state and readiness, and REARM ALL as a run of rearms over all eight. -/
theorem rearmCommandRearmsReadyGroups : Obligations.RearmCommandRearmsReadyGroups := by
  unfold Obligations.RearmCommandRearmsReadyGroups
  refine fun s c rest hh => ⟨fun g ha => ⟨fun armed => ?_, fun tripped ready => ?_, fun why tripped failed => ?_⟩, fun ha => ?_⟩
  · exact exec_rearm_one hh ha (tryRearm_armed (s := taken s rest) armed .command)
  · refine ⟨_, exec_rearm_one hh ha (tryRearm_ready (s := taken s rest) tripped ready .command), ?_⟩
    rw [Bool.and_eq_true, anyTripped_setGroup_armed]
    rfl
  · exact exec_rearm_one hh ha (tryRearm_unready (s := taken s rest) tripped failed .command)
  · have ready : ∀ g, rearms (fun _ => true) (taken s rest) g = true ↔
        (s.group g).state = .tripped ∧ failedCondition s g = none := fun g => by
      rw [rearms_iff, and_iff_right rfl]; rfl
    have carried := exec_rearm_all hh ha
    have frame := rearmEach_frame .command (fun _ => true) allGroups (taken s rest)
    have group := rearmEach_group (how := .command) (p := fun _ => true) (s := taken s rest) allGroups_nodup
    have low := rearmEach_faultLow (how := .command) (p := fun _ => true) (s := taken s rest) allGroups_nodup
    have keeps := rearmEach_keeps .command (fun _ => true) allGroups (taken s rest)
    have records := rearmEach_newRecords (how := .command) (p := fun _ => true) (s := taken s rest) allGroups_nodup
    generalize rearmEach .command (fun _ => true) allGroups (taken s rest) = u at *
    refine ⟨u, _, carried, frame, rfl, fun g => ?_, low, fun room => ⟨keeps, ?_⟩⟩
    · exact (group g).trans (if_congr ((and_iff_right (List.mem_finRange g)).trans (ready g)) rfl rfl)
    · refine (records (Nat.add_le_add room (Nat.le_refl 8))).trans ?_
      refine congrArg (List.map _) (List.filter_congr fun g _ => Bool.eq_iff_iff.mpr ?_)
      rw [ready]
      simp

/-! #### The Group Controller at an open (R111, R113) -/

/-- Every TRIPPED group's hold-off drops by one (R111). -/
theorem stepHoldoffs_group (s : State) (g : Grp) :
    (stepHoldoffs s).group g =
      if (s.group g).state = .tripped then { s.group g with holdoffLeft := (s.group g).holdoffLeft - 1 } else s.group g := by
  simp [stepHoldoffs, State.group]

theorem stepHoldoffs_group_state (s : State) (g : Grp) : ((stepHoldoffs s).group g).state = (s.group g).state := by
  rw [stepHoldoffs_group]
  split <;> rfl

theorem groupsOpen_eq (s : State) : groupsOpen s = rearmEach .auto (·.autoRearm) allGroups (stepHoldoffs s) := autoRearmOver_eq ..

theorem FaultPinHonest.rearmEach {s : State} (h : FaultPinHonest s) (how : RearmHow) (p : GroupEntry → Bool) (l : List Grp) :
    FaultPinHonest (rearmEach how p l s) := by
  induction l generalizing s with
  | nil => exact h
  | cons g l ih =>
    refine ih ?_
    split
    · exact h.rearmGroup how g
    · exact h

theorem FaultPinHonest.stepHoldoffs {s : State} (h : FaultPinHonest s) : FaultPinHonest (stepHoldoffs s) := by
  unfold FaultPinHonest
  simp only [stepHoldoffs_group_state, stepHoldoffs_faultLow]
  exact h

/-- The open rearms a group that is TRIPPED with auto_rearm yes, and ready with its hold-off at 1 or 0 before the open (R111 to R113). -/
theorem rearms_stepHoldoffs_iff (s : State) (g : Grp) :
    rearms (·.autoRearm) (stepHoldoffs s) g = true ↔
      (s.group g).state = .tripped ∧ (s.groupEntry g).autoRearm = true ∧
        (∀ c : Chan, s.guardMember g c = true → (s.channel c).state ≠ .faulted) ∧
        ((s.groupEntry g).pinBound = true → s.tripHigh = true) ∧
        ((s.groupEntry g).linkBound = true → s.tracker.state ≠ .nosync) ∧ (s.group g).holdoffLeft ≤ 1 := by
  rw [rearms_iff, stepHoldoffs_group_state, failedCondition_eq_none_iff]
  refine and_congr_right fun tripped => and_congr Iff.rfl (and_congr ?_ (and_congr ?_ (and_congr ?_ ?_)))
  · refine forall_congr' fun c => ?_
    rw [← faultedMember_iff, Bool.and_eq_true, not_and, beq_iff_eq]
    rfl
  · rw [PinHolds, ← Bool.not_eq_true, ← imp_iff_not_or]
    rfl
  · rw [LinkHolds, ← Bool.not_eq_true, ← imp_iff_not_or]
    rfl
  · rw [stepHoldoffs_group, if_pos tripped]
    exact Nat.sub_eq_zero_iff_le

/-- Settles O30: the open steps the hold-offs and is then a run of rearms over all eight groups. -/
theorem openStepsHoldoffsAndAutoRearms : Obligations.OpenStepsHoldoffsAndAutoRearms := by
  unfold Obligations.OpenStepsHoldoffsAndAutoRearms
  intro s
  have group : ∀ g : Grp, (groupsOpen s).group g =
      if rearms (·.autoRearm) (stepHoldoffs s) g = true then .armed else (stepHoldoffs s).group g := fun g => by
    rw [groupsOpen_eq, rearmEach_group allGroups_nodup]
    exact if_congr (and_iff_right (List.mem_finRange g)) rfl rfl
  refine ⟨groupsOpen_frame s, fun honest => ?_, fun g => ⟨fun armed => ?_, fun tripped => ?_⟩, fun room => ?_⟩
  · rw [groupsOpen_eq]
    exact honest.stepHoldoffs.rearmEach ..
  · rw [group, if_neg, stepHoldoffs_group, if_neg]
    · rw [armed]; nofun
    · rw [rearms_stepHoldoffs_iff, armed]; nofun
  · rw [group, stepHoldoffs_group, if_pos tripped]
    exact if_congr ((rearms_stepHoldoffs_iff s g).trans (and_iff_right tripped)) rfl rfl
  · rw [groupsOpen_eq]
    refine ⟨rearmEach_keeps _ _ _ (stepHoldoffs s), ?_⟩
    refine (rearmEach_newRecords (s := stepHoldoffs s) allGroups_nodup (Nat.add_le_add room (Nat.le_refl 8))).trans ?_
    refine congrArg (List.map _) (List.filter_congr fun g _ => ?_)
    rw [← groupsOpen_eq, group]
    split <;> rename_i hr
    · rw [((rearms_stepHoldoffs_iff s g).mp hr).1, hr]
      rfl
    · rw [stepHoldoffs_group_state, Bool.eq_false_iff.mpr hr]
      cases (s.group g).state <;> rfl

end Sys2Proof.Machine
end

section
/-! ### The groups and FAULT_N through the part's own acts (R102 to R106, R111 to R113) -/

namespace Sys2Proof.Machine

/-- Group records are well formed, a group is TRIPPED only in ACTIVE, and FAULT_N is low exactly while one is (R102, R103, R106). -/
structure SafeState (s : State) : Prop where
  groups : GroupsSound s
  pin : FaultPinHonest s

/-! #### What the conditions read -/

/-- With the groups and FAULT_N as they were, the device mode is to be ACTIVE only where a group is TRIPPED. -/
theorem SafeState.withMode {s t : State} (h : SafeState s) (hg : t.groups = s.groups) (hf : t.faultLow = s.faultLow)
    (hm : (∃ g : Grp, (s.group g).state = .tripped) → t.tables.deviceMode = .active) : SafeState t := by
  obtain ⟨⟨records, -⟩, pin⟩ := h
  have group : t.group = s.group := funext fun g => State.group_congr hg g
  refine ⟨⟨?_, ?_⟩, ?_⟩
  · rw [group]; exact records
  · rw [group]; exact hm
  · rw [FaultPinHonest, group, hf]; exact pin

/-- The groups, FAULT_N and the device mode stand. -/
structure KeepsGroups (s t : State) : Prop where
  groups : t.groups = s.groups
  faultLow : t.faultLow = s.faultLow
  deviceMode : t.tables.deviceMode = s.tables.deviceMode

theorem KeepsGroups.refl (s : State) : KeepsGroups s s := ⟨rfl, rfl, rfl⟩

theorem SafeState.keep {s t : State} (h : SafeState s) (hk : KeepsGroups s t) : SafeState t :=
  h.withMode hk.groups hk.faultLow fun tripped => hk.deviceMode.trans (h.groups.active tripped)

theorem KeepsGroups.of_tables {s t : State} (hg : t.groups = s.groups) (hf : t.faultLow = s.faultLow) (ht : t.tables = s.tables) :
    KeepsGroups s t := ⟨hg, hf, by rw [ht]⟩

theorem SafeState.unchanged {s t : State} (h : SafeState s) (hg : t.groups = s.groups) (hf : t.faultLow = s.faultLow)
    (ht : t.tables = s.tables) : SafeState t := h.keep (.of_tables hg hf ht)

theorem SafeState.of_core {s t : State} (h : SafeState s) (hc : t.core = s.core) : SafeState t := by
  have groups : t.groups = s.groups := (congrArg State.groups hc :)
  have faultLow : t.faultLow = s.faultLow := (congrArg State.faultLow hc :)
  have tables : t.tables = s.tables := (congrArg State.tables hc :)
  exact h.unchanged groups faultLow tables

theorem SafeState.submit {s : State} (h : SafeState s) (n : Option CycleNo) (b : RecordBody) : SafeState (submit n b s) :=
  h.unchanged (submit_groups ..) (submit_faultLow ..) (submit_tables ..)

theorem SafeState.retrack {s : State} (h : SafeState s) (k : Tracker) : SafeState { s with tracker := k } := h.unchanged rfl rfl rfl

theorem armed_wellFormed : GroupRecord.armed.WellFormed := ⟨fun _ => rfl, nofun, by decide⟩

/-- At power-on every group is ARMED and FAULT_N is not driven (R102, R103). -/
theorem safeState_reset : SafeState .reset := by
  have group : ∀ g : Grp, State.reset.group g = .armed := fun g => by simp [State.reset, State.group]
  have untripped : ¬ ∃ g : Grp, (State.reset.group g).state = .tripped := fun ⟨g, hg⟩ => by rw [group] at hg; cases hg
  exact ⟨⟨fun g => by rw [group]; exact armed_wellFormed, fun h => absurd h untripped⟩, iff_of_false nofun untripped⟩

/-! #### Trip requests (R104 to R106) -/

/-- A request whose channel is there exactly for the cause CHANNEL leaves a well-formed record (R102, R104, R105). -/
theorem afterRequest_wellFormed {s : State} {g : Grp} (h : (s.group g).WellFormed) {k : TripCause} {c : Option Chan}
    (hk : c.isSome ↔ k = .channel) (n : Option CycleNo) : (afterRequest s g k c n).WellFormed := by
  obtain ⟨-, cause, channel⟩ := h
  unfold afterRequest
  split
  · exact ⟨nofun, fun _ => rfl, by simpa using hk⟩
  · rename_i tripped
    exact ⟨fun armed => absurd armed tripped, cause, channel⟩

/-- After a request in ACTIVE its group is TRIPPED and FAULT_N is low (R103 to R105). -/
theorem SafeState.tripRequest {s : State} (h : SafeState s) {q : TripRequest} (hq : q.channel.isSome ↔ q.cause = .channel) :
    SafeState (tripRequest q s) := by
  cases hm : s.tables.deviceMode with
  | bypass => rw [tripRequest_bypass hm]; exact h
  | active =>
    have group := tripRequest_group hm q
    have tripped : ((Machine.tripRequest q s).group q.group).state = .tripped := by
      rw [group, if_pos rfl, afterRequest_tripped]
    have low : (Machine.tripRequest q s).faultLow = true := by
      cases hs : (s.group q.group).state with
      | armed => rw [tripRequest_armed hm hs]
      | tripped => rw [tripRequest_tripped hm hs]; exact h.pin.mpr ⟨q.group, hs⟩
    refine ⟨⟨fun g => ?_, fun _ => by rw [tripRequest_tables]; exact hm⟩, iff_of_true low ⟨q.group, tripped⟩⟩
    rw [group]
    split
    · exact afterRequest_wellFormed (h.groups.records g) hq _
    · exact h.groups.records g

theorem SafeState.tripGroups {s : State} (h : SafeState s) {k : TripCause} (hk : k ≠ .channel) (l : List Grp) :
    SafeState (tripGroups k l s) := by
  induction l generalizing s with
  | nil => exact h
  | cons g l ih => exact ih (h.tripRequest (iff_of_false nofun hk))

/-! #### Rearms and hold-offs (R111 to R115) -/

theorem SafeState.rearmGroup {s : State} (h : SafeState s) (how : RearmHow) (g : Grp) : SafeState (rearmGroup how g s) := by
  refine ⟨⟨fun k => ?_, fun ⟨k, hk⟩ => ?_⟩, h.pin.rearmGroup how g⟩
  · rw [rearmGroup_group]
    split
    · exact armed_wellFormed
    · exact h.groups.records k
  · rw [rearmGroup_group] at hk
    rw [rearmGroup_tables]
    split at hk
    · cases hk
    · exact h.groups.active ⟨k, hk⟩

theorem SafeState.rearmEach {s : State} (h : SafeState s) (how : RearmHow) (p : GroupEntry → Bool) (l : List Grp) :
    SafeState (rearmEach how p l s) := by
  induction l generalizing s with
  | nil => exact h
  | cons g l ih =>
    refine ih ?_
    split
    · exact h.rearmGroup how g
    · exact h

theorem SafeState.groupsOpen {s : State} (h : SafeState s) : SafeState (groupsOpen s) := by
  rw [groupsOpen_eq]
  refine SafeState.rearmEach ⟨⟨fun g => ?_, ?_⟩, h.pin.stepHoldoffs⟩ _ _ _
  · obtain ⟨armed, cause, channel⟩ := h.groups.records g
    rw [stepHoldoffs_group]
    split
    · rename_i tripped
      exact ⟨fun ha => absurd (tripped.symm.trans ha) (by decide), cause, channel⟩
    · exact h.groups.records g
  · simp only [stepHoldoffs_group_state, stepHoldoffs_tables]
    exact h.groups.active

/-! #### Evaluations and the work on a sample (R64, R69 to R75) -/

theorem SafeState.setChannel {s : State} (h : SafeState s) (c : Chan) (r : ChannelRecord) : SafeState (s.setChannel c r) :=
  h.unchanged rfl rfl rfl

theorem SafeState.qualifyFault {s : State} (h : SafeState s) (c : Chan) (n : CycleNo) (k : ClassSet) (v : Option Sample)
    (r : ChannelRecord) : SafeState (qualifyFault c n k v r s) := by
  have reported : SafeState (faultReported c n k v r s) := (h.setChannel c (r.qualified k n)).submit _ _
  by_cases hr : ∃ g, Requests s c g
  · obtain ⟨g, hr⟩ := hr
    rw [qualifyFault_requests c n k v r hr]
    exact reported.tripRequest (iff_of_true rfl rfl)
  · rw [qualifyFault_silent c n k v r fun g hg => hr ⟨g, hg⟩]
    exact reported

theorem SafeState.evaluate {s : State} (h : SafeState s) (c : Chan) (n : CycleNo) (k : ClassSet) (v : Option Sample) :
    SafeState (evaluate c n k v s) := by
  unfold Machine.evaluate
  dsimp only
  repeat' split
  · exact (h.setChannel ..).submit _ _
  · exact h.setChannel ..
  · exact h.setChannel ..
  · exact h.qualifyFault ..
  · exact h.setChannel ..
  · exact h.setChannel ..

theorem SafeState.staleOver {s : State} (h : SafeState s) (n : CycleNo) (seen : Vector Bool 96) (l : List Chan) :
    SafeState (staleOver n seen l s) := by
  induction l generalizing s with
  | nil => exact h
  | cons c l ih =>
    refine ih ?_
    split
    · exact h.evaluate ..
    · exact h

theorem SafeState.staleTrigger {s : State} (h : SafeState s) (n : CycleNo) (seen : Vector Bool 96) :
    SafeState (staleTrigger n seen s) := h.staleOver n seen allChannels

theorem SafeState.staleRun {s : State} (h : SafeState s) (k : Nat) (n : CycleNo) : SafeState (staleRun k n s) := by
  induction k generalizing n s with
  | zero => exact h
  | succ k ih => exact ih (h.staleTrigger n clearMap) (n + 1)

theorem SafeState.judge {s : State} (h : SafeState s) (c : Chan) (x : SampleEntry) : SafeState (judge c x s).1 := by
  have noted : ∀ o, SafeState (noteValue c o s) := fun o =>
    h.unchanged (noteValue_groups ..) (noteValue_faultLow ..) (noteValue_tables ..)
  exact ((noted _).evaluate ..).unchanged (updateLastGood_groups ..) (updateLastGood_faultLow ..) (updateLastGood_tables ..)

theorem SafeState.sampleWork {s : State} (h : SafeState s) (x : SampleEntry) : SafeState (sampleWork x s).1 := by
  have seen : ∀ c, SafeState (s.markSeen c) := fun c => h.retrack _
  unfold Machine.sampleWork
  repeat' split
  · exact h
  · exact h
  · exact seen _
  · exact h.unchanged (noteDuplicate_groups ..) (noteDuplicate_faultLow ..) (noteDuplicate_tables ..)
  · exact (seen _).judge _ x

/-! #### The tracker's acts (R31, R33, R36, R39) -/

theorem SafeState.closeCycle {s : State} (h : SafeState s) (k : CloseKind) : SafeState (closeCycle k s) := by
  have closing : SafeState (closing k s) :=
    SafeState.retrack (h.unchanged (submitIncomplete_groups k s) (submitIncomplete_faultLow k s) (submitIncomplete_tables k s)) _
  have stale := closing.staleTrigger s.tracker.lastCycle s.tracker.seen
  have filled := stale.unchanged (fillStage_groups k s.tracker.lastCycle _) (fillStage_faultLow ..) (fillStage_tables ..)
  rw [closeCycle_eq]
  exact filled.unchanged (runPendingTest_groups ..) (runPendingTest_faultLow ..) (runPendingTest_tables ..)

/-- A swap leaves the part ACTIVE (R131). -/
theorem SafeState.swapAtOpen {s : State} (h : SafeState s) (n : CycleNo) : SafeState (swapAtOpen n s) := by
  refine h.withMode (swapAtOpen_groups n s) (swapAtOpen_faultLow n s) fun tripped => ?_
  have active := h.groups.active tripped
  unfold Machine.swapAtOpen
  repeat' split
  · exact active
  · rw [swap_tables]; rfl
  · exact active

/-- A change to BYPASS is dropped while a group is TRIPPED (R139). -/
theorem SafeState.modeChangeAtOpen {s : State} (h : SafeState s) (n : CycleNo) : SafeState (modeChangeAtOpen n s) := by
  refine h.withMode (modeChangeAtOpen_groups n s) (modeChangeAtOpen_faultLow n s) fun tripped => ?_
  have active := h.groups.active tripped
  unfold Machine.modeChangeAtOpen
  rw [if_pos ((anyTripped_iff s).mpr tripped)]
  split
  · rw [submit_tables]; exact active
  · exact active

theorem SafeState.openCycle {s : State} (h : SafeState s) (n : CycleNo) (i : Nat) : SafeState (openCycle n i s) := by
  have begun : SafeState (beginCycle n i s) := h.unchanged rfl rfl rfl
  exact ((begun.swapAtOpen n).modeChangeAtOpen n).groupsOpen.retrack _

theorem SafeState.openAhead {s : State} (h : SafeState s) (n : CycleNo) (i : Nat) : SafeState (openAhead n i s) := by
  have opened : ∀ {u : State}, SafeState u → ∀ k m, SafeState (Machine.openCycle n i (Machine.staleRun k m u)) := fun hu k m =>
    (hu.staleRun k m).openCycle n i
  unfold Machine.openAhead
  dsimp only
  split <;> split
  · exact opened ((h.submit _ _).retrack _) _ _
  · exact opened (h.retrack _) _ _
  · exact (opened ((h.submit _ _).retrack _) _ _).submit _ _
  · exact (opened (h.retrack _) _ _).submit _ _

theorem SafeState.arrive {s : State} (h : SafeState s) (n : CycleNo) (i : Nat) : SafeState (arrive n i s).2 := by
  unfold Machine.arrive arriveUnsynced arriveSame discardWith
  split
  · split
    · exact (h.openCycle n 0).submit _ _
    · exact h.unchanged rfl rfl rfl
  · repeat' split
    · exact h.retrack _
    · exact h.submit _ _
    · exact (h.submit _ _).retrack _
    · exact (h.closeCycle _).openAhead n i
    · exact h.submit _ _
  · split
    · exact h.openAhead n i
    · exact h.submit _ _

theorem SafeState.linkLoss {s : State} (h : SafeState s) : SafeState (linkLoss s) := by
  have ended : SafeState (linkEnded s) := SafeState.retrack (h.submit _ _) _
  rw [linkLoss_eq]
  exact ended.tripGroups (by decide) _

theorem SafeState.lostCycle {s : State} (h : SafeState s) : SafeState (lostCycle s) := by
  unfold Machine.lostCycle
  dsimp only
  split
  · exact ((h.retrack _).staleTrigger _ _).linkLoss
  · exact ((h.retrack _).staleTrigger _ _).retrack _

/-! #### The trip line and the end of a copy (R108, R134) -/

theorem SafeState.tripLineFall {s : State} (h : SafeState s) : SafeState (tripLineFall s) := by
  have low : SafeState (sampledLow s) := h.unchanged rfl rfl rfl
  cases high : s.tripHigh with
  | false => rw [tripLineFall_low high]; exact h
  | true => rw [tripLineFall_high high]; exact low.tripGroups (by decide) _

theorem SafeState.completeCopy {s : State} (h : SafeState s) : SafeState (completeCopy s) := by
  unfold Machine.completeCopy
  split
  · obtain ⟨-, -, -, -, deviceMode⟩ := s.tables.setStaging_rest s.tables.activeBank
    exact h.keep ⟨rfl, rfl, deviceMode⟩
  · exact h

/-! #### The commands (R16, R110, R114, R115, R125 to R138, R182 to R184) -/

/-- A write changes the staging bank and a mark, and not the device mode (R16). -/
theorem writeItems_keepsGroups {r : Nat → Nat → Bool} {l : FieldList} {w : TableStore → TableStore} {s : State}
    (hw : (w s.tables).deviceMode = s.tables.deviceMode) : KeepsGroups s (writeItems r l w s).state := by
  unfold writeItems
  repeat' split
  · exact .refl s
  · exact .refl s
  · exact .refl s
  · exact ⟨rfl, rfl, hw⟩

theorem TableStore.setStaging_deviceMode (t : TableStore) (b : Bank) : (t.setStaging b).deviceMode = t.deviceMode := by
  obtain ⟨-, -, -, -, deviceMode⟩ := t.setStaging_rest b
  exact deviceMode

theorem runWriteChannel_keepsGroups (args : List Byte) (s : State) : KeepsGroups s (runWriteChannel args s).state := by
  unfold runWriteChannel
  repeat' split
  · exact .refl s
  · exact writeItems_keepsGroups (TableStore.setStaging_deviceMode ..)
  · exact .refl s

theorem runWriteGroup_keepsGroups (args : List Byte) (s : State) : KeepsGroups s (runWriteGroup args s).state := by
  unfold runWriteGroup
  repeat' split
  · exact .refl s
  · exact writeItems_keepsGroups (TableStore.setStaging_deviceMode ..)
  · exact .refl s

theorem runWriteCycle_keepsGroups (args : List Byte) (s : State) : KeepsGroups s (runWriteCycle args s).state := by
  unfold runWriteCycle
  split
  · exact writeItems_keepsGroups (TableStore.setStaging_deviceMode ..)
  · exact .refl s

theorem SafeState.runTrip {s : State} (h : SafeState s) (args : List Byte) : SafeState (runTrip args s).state := by
  unfold Machine.runTrip
  repeat' split
  · exact h
  · exact h
  · dsimp only
    exact h.tripGroups (by decide) _

theorem SafeState.runRearm {s : State} (h : SafeState s) (args : List Byte) : SafeState (runRearm args s).state := by
  unfold Machine.runRearm
  split
  · exact h
  · rw [tryRearm_eq]
    dsimp only
    split
    · exact h.rearmGroup ..
    · exact h
  · rw [rearmOver_eq allGroups_nodup]
    dsimp only
    exact h.rearmEach ..

theorem SafeState.resetRuntime {s : State} (h : SafeState s) : SafeState (resetRuntimeOp s) := by
  refine h.unchanged ?_ ?_ (resetRuntimeOp_tables s) <;> rw [resetRuntimeOp_frame]

theorem SafeState.runReset {s : State} (h : SafeState s) (args : List Byte) : SafeState (runReset args s).state := by
  unfold Machine.runReset
  split <;> rename_i hs
  · rw [runResetRuntime, if_pos hs]; exact h.resetRuntime
  · rw [runResetLog, if_pos hs]; exact h.unchanged (clearLog_groups s) (clearLog_faultLow s) (clearLog_tables s)
  · rw [runResetDevice, if_pos hs]; exact safeState_reset.of_core (resetDeviceOp_core s)
  · exact h

/-- TRIP, REARM and RESET are taken by themselves; every other command leaves the groups, FAULT_N and the device mode. -/
theorem SafeState.command {s : State} (h : SafeState s) {code : Byte} {run : List Byte → State → Answer}
    (hr : (code, run) ∈ commandTable) (args : List Byte) : SafeState (run args s).state := by
  simp only [commandTable, List.mem_cons, Prod.mk.injEq, List.not_mem_nil, or_false] at hr
  rcases hr with ⟨-, rfl⟩ | ⟨-, rfl⟩ | ⟨-, rfl⟩ | ⟨-, rfl⟩ | ⟨-, rfl⟩ | ⟨-, rfl⟩ | ⟨-, rfl⟩ | ⟨-, rfl⟩ | ⟨-, rfl⟩ | ⟨-, rfl⟩ |
    ⟨-, rfl⟩ | ⟨-, rfl⟩ | ⟨-, rfl⟩ | ⟨-, rfl⟩ | ⟨-, rfl⟩ | ⟨-, rfl⟩ | ⟨-, rfl⟩ | ⟨-, rfl⟩ | ⟨-, rfl⟩ | ⟨-, rfl⟩ | ⟨-, rfl⟩
  · unfold runIdentify; split <;> exact h
  · unfold runStatus; split <;> exact h
  · unfold runReadChannel; repeat' split
    all_goals exact h
  · exact h.keep (runWriteChannel_keepsGroups args s)
  · unfold runReadGroup; repeat' split
    all_goals exact h
  · exact h.keep (runWriteGroup_keepsGroups args s)
  · unfold runReadCycle; repeat' split
    all_goals exact h
  · exact h.keep (runWriteCycle_keepsGroups args s)
  · unfold runCommit; repeat' split
    all_goals exact h.keep ⟨rfl, rfl, rfl⟩
  · unfold runCancel; split <;> exact h.keep ⟨rfl, rfl, rfl⟩
  · unfold runBypass; repeat' split
    all_goals exact h.keep ⟨rfl, rfl, rfl⟩
  · unfold runChannelState; repeat' split
    all_goals exact h
  · unfold runGroupState; repeat' split
    all_goals exact h
  · exact h.runTrip args
  · exact h.runRearm args
  · unfold runLogRead; repeat' split
    all_goals exact h
  · unfold runLogAck; repeat' split
    all_goals exact h.keep ⟨rfl, rfl, rfl⟩
  · unfold runLogClear; split <;> exact h.keep ⟨rfl, rfl, rfl⟩
  · unfold runTestCommand; repeat' split
    all_goals exact h.keep ⟨rfl, rfl, rfl⟩
  · unfold runTestResult; repeat' split
    all_goals exact h.keep ⟨rfl, rfl, rfl⟩
  · exact h.runReset args

/-! #### Every step -/

theorem safeState_invariant : Invariant SafeState where
  onCore := SafeState.of_core
  onReset := safeState_reset
  onArrive n i _ h := h.arrive n i
  onSample x _ h := h.sampleWork x
  onClose k _ _ h := h.closeCycle k
  onLostCycle _ h := h.lostCycle
  onLinkLoss _ h := h.linkLoss
  onTripLine h := h.tripLineFall
  onCopy h := h.completeCopy
  onCommand hm args _ h := h.command hm args

/-- Settles O54: the conditions are an invariant of the part's own acts, and so of every step. -/
theorem groupsAndFaultPinStaySound : Obligations.GroupsAndFaultPinStaySound := by
  unfold Obligations.GroupsAndFaultPinStaySound
  intro s t groups pin hstep
  obtain ⟨groups, pin⟩ := safeState_invariant.onStep ⟨groups, pin⟩ hstep
  exact ⟨groups, pin⟩

end Sys2Proof.Machine
end

section
/-! ### What is pending, through the part's own acts (R124, R131, R134, R139, R166) -/

namespace Sys2Proof.Machine

theorem PendingSound.unchanged {s t : State} (h : PendingSound s) (ht : t.tables = s.tables) (hp : t.test = s.test) :
    PendingSound t := by
  refine h.of_fields ?_ ?_ ?_ ?_ (by rw [hp]; exact id) <;> rw [ht]

theorem PendingSound.of_core {s t : State} (h : PendingSound s) (hc : t.core = s.core) : PendingSound t := by
  have tables : t.tables = s.tables := (congrArg State.tables hc :)
  have test : t.test = s.test := (congrArg State.test hc :)
  exact h.unchanged tables test

/-- With no test pending the conditions are on the tables alone (R124, R134, R138). -/
theorem PendingSound.of_tables {s t : State} (h : PendingSound s) (ht : t.tables = s.tables) (hp : t.test.pending = none) :
    PendingSound t := by
  refine h.of_fields ?_ ?_ ?_ ?_ (by rw [hp]; nofun) <;> rw [ht]

theorem PendingSound.submit {s : State} (h : PendingSound s) (n : Option CycleNo) (b : RecordBody) : PendingSound (submit n b s) :=
  h.unchanged (submit_tables ..) (submit_test ..)

theorem PendingSound.retrack {s : State} (h : PendingSound s) (k : Tracker) : PendingSound { s with tracker := k } :=
  h.unchanged rfl rfl

/-- At power-on nothing is pending (R14, R166). -/
theorem pendingSound_reset : PendingSound .reset := ⟨.inl rfl, nofun, nofun, nofun⟩

/-- The conditions read no bank and no mark, and the end of a copy only lifts what it forbade (R124, R134). -/
theorem PendingSound.restaged {s : State} (h : PendingSound s) (b : Bank) (m : Marks) {copy : Bool}
    (hf : copy = true → s.tables.copyInFlight = true) :
    PendingSound { s with tables := { s.tables.setStaging b with marks := m, copyInFlight := copy } } := by
  obtain ⟨-, commit, modeChange, -, deviceMode⟩ := s.tables.setStaging_rest b
  obtain ⟨one, copying, mode, test⟩ := h
  refine ⟨one.imp commit.trans modeChange.trans, fun hc => commit.trans (copying (hf hc)), fun hm => ?_, fun hp => ?_⟩
  · exact deviceMode.trans (mode (modeChange.symm.trans hm))
  · exact deviceMode.trans (test hp)

/-! #### The work on a sample and the closes (R33, R46 to R49, R159) -/

theorem sampleWork_tables (x : SampleEntry) (s : State) : (sampleWork x s).1.tables = s.tables := by
  unfold sampleWork
  repeat' split
  · rfl
  · rfl
  · rfl
  · exact noteDuplicate_tables ..
  · rw [judge_frame]; rfl

theorem sampleWork_test (x : SampleEntry) (s : State) : (sampleWork x s).1.test = s.test := by
  unfold sampleWork
  repeat' split
  · rfl
  · rfl
  · rfl
  · exact noteDuplicate_test ..
  · rw [judge_frame]; rfl

/-- A close leaves no test pending (R159). -/
theorem PendingSound.closeCycle {s : State} (h : PendingSound s) (k : CloseKind) : PendingSound (closeCycle k s) :=
  h.of_tables (closeCycle_tables k s) (closeCycle_test_pending k s)

/-! #### The Table Store at an open (R128, R131, R139) -/

/-- Behind a swap no commit is pending and the part is ACTIVE, whatever was pending before (R131). -/
theorem pendingSound_swap (n : CycleNo) (s : State) : PendingSound (swap n s) := by
  constructor <;> rw [swap_tables]
  · exact .inl rfl
  · exact fun _ => rfl
  · exact fun _ => rfl
  · exact fun _ => rfl

theorem PendingSound.swapAtOpen {s : State} (h : PendingSound s) (n : CycleNo) : PendingSound (swapAtOpen n s) := by
  unfold Machine.swapAtOpen
  repeat' split
  · exact h
  · exact pendingSound_swap n s
  · exact h

/-- A change to BYPASS leaves neither a mode change nor a test pending (R139, R166). -/
theorem PendingSound.madeBypass {s : State} (h : PendingSound s) (n : CycleNo) : PendingSound (madeBypass n s) := by
  have tables : (Machine.madeBypass n s).tables = { s.tables with modeChange := false, deviceMode := .bypass } := by
    rw [madeBypass_frame]
  have test : (Machine.madeBypass n s).test.pending = none := by
    cases hp : s.test.pending with
    | none => rw [madeBypass_test_none hp, hp]
    | some p => rw [madeBypass_test_some hp]
  refine ⟨?_, ?_, ?_, ?_⟩
  · rw [tables]; exact .inr rfl
  · rw [tables]; exact h.copy
  · rw [tables]; nofun
  · rw [test]; nofun

theorem PendingSound.modeChangeAtOpen {s : State} (h : PendingSound s) (n : CycleNo) : PendingSound (modeChangeAtOpen n s) := by
  have dropped : PendingSound { s with tables := { s.tables with modeChange := false } } := ⟨.inr rfl, h.copy, nofun, h.test⟩
  unfold Machine.modeChangeAtOpen
  repeat' split
  · exact dropped.submit _ _
  · exact (h.madeBypass n).submit _ _
  · exact h

/-! #### Opens and arrivals (R25 to R31) -/

theorem PendingSound.openCycle {s : State} (h : PendingSound s) (n : CycleNo) (i : Nat) : PendingSound (openCycle n i s) := by
  have begun : PendingSound (beginCycle n i s) := h.unchanged rfl rfl
  have opened : PendingSound (groupsOpen (tableStoreOpen n (beginCycle n i s))) :=
    ((begun.swapAtOpen n).modeChangeAtOpen n).unchanged (groupsOpen_tables _) (groupsOpen_test _)
  exact opened.retrack _

theorem PendingSound.openAhead {s : State} (h : PendingSound s) (n : CycleNo) (i : Nat) : PendingSound (openAhead n i s) := by
  have opened : ∀ {u : State}, PendingSound u → ∀ k m, PendingSound (Machine.openCycle n i (staleRun k m u)) := fun hu k m =>
    (hu.unchanged (staleRun_tables k m _) (staleRun_test k m _)).openCycle n i
  have skipped : PendingSound (if 0 < skipCount n s.tracker.lastCycle then
      Machine.submit s.stamp (.seq .skip (some (skipCount n s.tracker.lastCycle)) (some (n, i))) s else s) := by
    split
    · exact h.submit _ _
    · exact h
  unfold Machine.openAhead
  dsimp only
  split
  · exact opened (skipped.retrack _) _ _
  · exact (opened (skipped.retrack _) _ _).submit _ _

theorem PendingSound.arrive {s : State} (h : PendingSound s) (n : CycleNo) (i : Nat) : PendingSound (arrive n i s).2 := by
  unfold Machine.arrive arriveUnsynced arriveSame discardWith
  split
  · split
    · exact (h.openCycle n 0).submit _ _
    · exact h.unchanged rfl rfl
  · repeat' split
    · exact h.retrack _
    · exact h.submit _ _
    · exact (h.submit _ _).retrack _
    · exact (h.closeCycle _).openAhead n i
    · exact h.submit _ _
  · split
    · exact h.openAhead n i
    · exact h.submit _ _

/-! #### The end of a copy (R134) -/

theorem PendingSound.completeCopy {s : State} (h : PendingSound s) : PendingSound (completeCopy s) := by
  unfold Machine.completeCopy
  split
  · exact h.restaged _ _ nofun
  · exact h

end Sys2Proof.Machine
end

section
/-! ### What is pending, through the commands (R16, R124, R125, R130, R138, R158, R182 to R184) -/

namespace Sys2Proof.Machine

/-! #### Writes (R16) -/

theorem PendingSound.writeItems {s : State} (h : PendingSound s) {r : Nat → Nat → Bool} {l : FieldList}
    {w : TableStore → TableStore} (hw : PendingSound { s with tables := w s.tables }) :
    PendingSound (writeItems r l w s).state := by
  unfold Machine.writeItems
  repeat' split
  · exact h
  · exact h
  · exact h
  · exact hw

/-- A write changes the staging bank and a mark (R16). -/
theorem PendingSound.written {s : State} (h : PendingSound s) (b : Bank) (m : Marks) :
    PendingSound { s with tables := { s.tables.setStaging b with marks := m } } :=
  have ⟨_, _, _, copy, _⟩ := s.tables.setStaging_rest b
  h.restaged b m (copy := (s.tables.setStaging b).copyInFlight) copy.symm.trans

theorem PendingSound.runWriteChannel {s : State} (h : PendingSound s) (args : List Byte) :
    PendingSound (runWriteChannel args s).state := by
  unfold Machine.runWriteChannel
  repeat' split
  · exact h
  · exact h.writeItems (h.written ..)
  · exact h

theorem PendingSound.runWriteGroup {s : State} (h : PendingSound s) (args : List Byte) :
    PendingSound (runWriteGroup args s).state := by
  unfold Machine.runWriteGroup
  repeat' split
  · exact h
  · exact h.writeItems (h.written ..)
  · exact h

theorem PendingSound.runWriteCycle {s : State} (h : PendingSound s) (args : List Byte) :
    PendingSound (runWriteCycle args s).state := by
  unfold Machine.runWriteCycle
  split
  · exact h.writeItems (h.written ..)
  · exact h

/-! #### Pending changes and tests (R125, R130, R138, R158) -/

/-- A commit becomes pending with no mode change pending and no copy in flight (R124, R125). -/
theorem PendingSound.runCommit {s : State} (h : PendingSound s) (args : List Byte) : PendingSound (runCommit args s).state := by
  unfold Machine.runCommit
  repeat' split
  · exact h
  · exact h
  · exact h
  · exact h
  · exact h
  · rename_i idle _ nothing _ _ _ _
    obtain ⟨-, noModeChange⟩ := pendingResult_none nothing
    exact ⟨.inr noModeChange, fun copying => absurd copying idle, h.mode, h.test⟩

theorem PendingSound.runCancel {s : State} (h : PendingSound s) (args : List Byte) : PendingSound (runCancel args s).state := by
  unfold Machine.runCancel
  split
  · exact h
  · exact ⟨.inl rfl, fun _ => rfl, h.mode, h.test⟩

/-- A mode change becomes pending in ACTIVE with no commit pending (R124, R138). -/
theorem PendingSound.runBypass {s : State} (h : PendingSound s) (args : List Byte) : PendingSound (runBypass args s).state := by
  unfold Machine.runBypass
  repeat' split
  · exact h
  · exact h
  · exact h
  · exact h
  · rename_i active _ nothing _
    obtain ⟨noCommit, -⟩ := pendingResult_none nothing
    exact ⟨.inl noCommit, h.copy, fun _ => DeviceMode.eq_active active, h.test⟩

/-- A test becomes pending in ACTIVE, and one that runs at once is pending no more (R158, R159). -/
theorem PendingSound.runTestCommand {s : State} (h : PendingSound s) (args : List Byte) :
    PendingSound (runTestCommand args s).state := by
  unfold Machine.runTestCommand
  repeat' split
  · exact h
  · exact h
  · exact h
  · exact h
  · exact h.of_tables rfl rfl
  · rename_i active _ _ _ _
    exact ⟨h.one, h.copy, h.mode, fun _ => DeviceMode.eq_active active⟩

theorem PendingSound.runTestResult {s : State} (h : PendingSound s) (args : List Byte) :
    PendingSound (runTestResult args s).state := by
  unfold Machine.runTestResult
  repeat' split
  all_goals exact h.of_fields rfl rfl rfl rfl id

/-! #### Groups and resets (R110, R114, R115, R182 to R184) -/

theorem PendingSound.runTrip {s : State} (h : PendingSound s) (args : List Byte) : PendingSound (runTrip args s).state := by
  unfold Machine.runTrip
  repeat' split
  · exact h
  · exact h
  · exact h.unchanged (tripGroups_tables ..) (tripGroups_test ..)

theorem PendingSound.tryRearm {s : State} (h : PendingSound s) (how : RearmHow) (g : Grp) : PendingSound (tryRearm how g s).1 :=
  h.unchanged (tryRearm_tables ..) (tryRearm_test ..)

theorem PendingSound.rearmOver {s : State} (h : PendingSound s) (l : List Grp) : PendingSound (rearmOver l s).1 := by
  induction l generalizing s with
  | nil => exact h
  | cons g l ih => exact ih (h.tryRearm .command g)

theorem PendingSound.runRearm {s : State} (h : PendingSound s) (args : List Byte) : PendingSound (runRearm args s).state := by
  unfold Machine.runRearm
  split
  · exact h
  · exact h.tryRearm .command _
  · dsimp only; exact h.rearmOver allGroups

theorem PendingSound.runReset {s : State} (h : PendingSound s) (args : List Byte) : PendingSound (runReset args s).state := by
  unfold Machine.runReset
  split <;> rename_i hs
  · rw [runResetRuntime, if_pos hs]
    exact h.unchanged (resetRuntimeOp_tables s) (by rw [resetRuntimeOp_frame])
  · rw [runResetLog, if_pos hs]; exact h.unchanged (clearLog_tables s) (clearLog_test s)
  · rw [runResetDevice, if_pos hs]; exact pendingSound_reset.of_core (resetDeviceOp_core s)
  · exact h

/-! #### Every command, and every step -/

/-- A command that only reads, or that writes the log alone, leaves what is pending; the rest are taken one by one. -/
theorem PendingSound.command {s : State} (h : PendingSound s) {code : Byte} {run : List Byte → State → Answer}
    (hr : (code, run) ∈ commandTable) (args : List Byte) : PendingSound (run args s).state := by
  simp only [commandTable, List.mem_cons, Prod.mk.injEq, List.not_mem_nil, or_false] at hr
  rcases hr with ⟨-, rfl⟩ | ⟨-, rfl⟩ | ⟨-, rfl⟩ | ⟨-, rfl⟩ | ⟨-, rfl⟩ | ⟨-, rfl⟩ | ⟨-, rfl⟩ | ⟨-, rfl⟩ | ⟨-, rfl⟩ | ⟨-, rfl⟩ |
    ⟨-, rfl⟩ | ⟨-, rfl⟩ | ⟨-, rfl⟩ | ⟨-, rfl⟩ | ⟨-, rfl⟩ | ⟨-, rfl⟩ | ⟨-, rfl⟩ | ⟨-, rfl⟩ | ⟨-, rfl⟩ | ⟨-, rfl⟩ | ⟨-, rfl⟩
  · unfold runIdentify; split <;> exact h
  · unfold runStatus; split <;> exact h
  · unfold runReadChannel; repeat' split
    all_goals exact h
  · exact h.runWriteChannel args
  · unfold runReadGroup; repeat' split
    all_goals exact h
  · exact h.runWriteGroup args
  · unfold runReadCycle; repeat' split
    all_goals exact h
  · exact h.runWriteCycle args
  · exact h.runCommit args
  · exact h.runCancel args
  · exact h.runBypass args
  · unfold runChannelState; repeat' split
    all_goals exact h
  · unfold runGroupState; repeat' split
    all_goals exact h
  · exact h.runTrip args
  · exact h.runRearm args
  · unfold runLogRead; repeat' split
    all_goals exact h
  · unfold runLogAck; repeat' split
    all_goals exact h.unchanged rfl rfl
  · unfold runLogClear; split <;> exact h.unchanged rfl rfl
  · exact h.runTestCommand args
  · exact h.runTestResult args
  · exact h.runReset args

theorem pendingSound_invariant : Invariant PendingSound where
  onCore := PendingSound.of_core
  onReset := pendingSound_reset
  onArrive n i _ h := h.arrive n i
  onSample x s h := h.unchanged (sampleWork_tables x s) (sampleWork_test x s)
  onClose k _ _ h := h.closeCycle k
  onLostCycle {s} _ h := h.unchanged (lostCycle_tables s) (lostCycle_test s)
  onLinkLoss {s} _ h := h.unchanged (linkLoss_tables s) (linkLoss_test s)
  onTripLine {s} h := h.unchanged (tripLineFall_tables s) (tripLineFall_test s)
  onCopy h := h.completeCopy
  onCommand hm args _ h := h.command hm args

/-- Settles O56: the conditions are an invariant of the part's own acts, and so of every step. -/
theorem atMostOneChangeIsPending : Obligations.AtMostOneChangeIsPending := by
  unfold Obligations.AtMostOneChangeIsPending
  exact fun _ _ => pendingSound_invariant.onStep

end Sys2Proof.Machine
end

section
/-! ### Validation (R126) -/

namespace Sys2Proof.Machine

/-- The limits of an entry stand in order: the relation ORDER (R126). -/
def ChannelEntry.Ordered (e : ChannelEntry) : Prop :=
  e.lowLimit.toInt ≤ e.warnLow.toInt ∧ e.warnLow.toInt ≤ e.warnHigh.toInt ∧ e.warnHigh.toInt ≤ e.highLimit.toInt

/-- An entry meets the four relations ORDER, WINDOW, PHASE and GROUP (R126). -/
def ChannelEntry.Good (e : ChannelEntry) : Prop :=
  e.Ordered ∧ e.threshold ≤ e.window ∧ e.phase < e.period ∧ (e.trip = false ∨ e.group ≠ none)

theorem limitsOrdered_iff (e : ChannelEntry) : limitsOrdered e = true ↔ e.Ordered := by
  simp [limitsOrdered, ChannelEntry.Ordered, and_assoc]

theorem trip_without_group_iff (e : ChannelEntry) : (e.trip && e.group.isNone) = true ↔ ¬ (e.trip = false ∨ e.group ≠ none) := by
  simp

/-- Of the checks in their order, ORDER, WINDOW, PHASE and GROUP, the entry fails this one and none before it (R126). -/
def ChannelEntry.Fails (e : ChannelEntry) : ValidationCheck → Prop
  | .order => ¬ e.Ordered
  | .window => e.Ordered ∧ e.window < e.threshold
  | .phase => e.Ordered ∧ e.threshold ≤ e.window ∧ e.period ≤ e.phase
  | .group => e.Ordered ∧ e.threshold ≤ e.window ∧ e.phase < e.period ∧ ¬ (e.trip = false ∨ e.group ≠ none)

/-- What validation finds in an entry: nothing where it is OFF or good, and else the first check it fails (R126). -/
theorem validateEntry_cases (e : ChannelEntry) :
    (validateEntry e = none ∧ (e.mode = .off ∨ e.Good)) ∨ ∃ k, validateEntry e = some k ∧ e.mode ≠ .off ∧ e.Fails k := by
  unfold validateEntry
  by_cases off : e.mode = .off
  · exact .inl ⟨if_pos off, .inl off⟩
  rw [if_neg off]
  by_cases ordered : e.Ordered
  case neg => exact .inr ⟨.order, if_pos (by simpa [limitsOrdered_iff, ← Bool.not_eq_true] using ordered), off, ordered⟩
  rw [if_neg (by simpa [← Bool.not_eq_true, limitsOrdered_iff] using ordered)]
  by_cases window : e.window < e.threshold
  · exact .inr ⟨.window, if_pos window, off, ordered, window⟩
  rw [if_neg window]
  replace window := Nat.not_lt.mp window
  by_cases phase : e.period ≤ e.phase
  · exact .inr ⟨.phase, if_pos phase, off, ordered, window, phase⟩
  rw [if_neg phase]
  replace phase := Nat.not_le.mp phase
  by_cases group : e.trip = false ∨ e.group ≠ none
  · exact .inl ⟨if_neg fun ungrouped => (trip_without_group_iff e).mp ungrouped group, .inr ⟨ordered, window, phase, group⟩⟩
  · exact .inr ⟨.group, if_pos ((trip_without_group_iff e).mpr group), off, ordered, window, phase, group⟩

/-- An entry that fails a check is not good, and the check is told by the relations before it and its own (R126). -/
theorem ChannelEntry.Fails.spec {e : ChannelEntry} {k : ValidationCheck} (h : e.Fails k) :
    ¬ e.Good ∧ (k = .order ↔ ¬ e.Ordered) ∧ (k = .window ↔ e.Ordered ∧ e.window < e.threshold) ∧
      (k = .phase ↔ e.Ordered ∧ e.threshold ≤ e.window ∧ e.period ≤ e.phase) ∧
      (k = .group ↔ e.Ordered ∧ e.threshold ≤ e.window ∧ e.phase < e.period) := by
  cases k with
  | order =>
    have notOrdered : ¬ e.Ordered := h
    exact ⟨fun ⟨ordered, _⟩ => notOrdered ordered, by simp [notOrdered]⟩
  | window =>
    obtain ⟨ordered, window⟩ := h
    have notWindow := Nat.not_le.mpr window
    exact ⟨fun ⟨_, within, _⟩ => notWindow within, by simp [ordered, window, notWindow]⟩
  | phase =>
    obtain ⟨ordered, window, phase⟩ := h
    have notPhase := Nat.not_lt.mpr phase
    exact ⟨fun ⟨_, _, below, _⟩ => notPhase below, by simp [ordered, window, phase, notPhase, Nat.not_lt.mpr window]⟩
  | group =>
    obtain ⟨ordered, window, phase, group⟩ := h
    exact ⟨fun ⟨_, _, _, good⟩ => group good, by simp [ordered, window, phase, Nat.not_lt.mpr window, Nat.not_le.mpr phase]⟩

theorem validateEntry_none_iff (e : ChannelEntry) : validateEntry e = none ↔ e.mode = .off ∨ e.Good := by
  rcases validateEntry_cases e with ⟨found, fine⟩ | ⟨k, found, on, fails⟩
  · exact iff_of_true found fine
  · obtain ⟨notGood, -⟩ := fails.spec
    exact iff_of_false (by rw [found]; nofun) (not_or.mpr ⟨on, notGood⟩)

theorem validateEntry_some {e : ChannelEntry} {k : ValidationCheck} (h : validateEntry e = some k) : e.mode ≠ .off ∧ e.Fails k := by
  rcases validateEntry_cases e with ⟨found, -⟩ | ⟨j, found, on, fails⟩
  · rw [found] at h; cases h
  · rw [found] at h; cases h; exact ⟨on, fails⟩

/-- Validation of some entries names the first of them in which it finds something (R126). -/
theorem validateOver_some {b : Bank} {l : List Chan} {c : Chan} {k : ValidationCheck} (h : validateOver b l = some (c, k)) :
    validateEntry b.channels[c] = some k ∧ l.find? (fun d => (validateEntry b.channels[d]).isSome) = some c := by
  induction l with
  | nil => cases h
  | cons a l ih =>
    rw [validateOver] at h
    rw [List.find?_cons]
    split at h
    · rename_i found
      cases h
      exact ⟨found, by rw [found]; rfl⟩
    · rename_i nothing
      rw [nothing]
      exact ih h

/-- Settles O46, by what validation finds in one entry and by the first entry in which it finds something. -/
theorem validationMeansTheFourRelations : Obligations.ValidationMeansTheFourRelations := by
  unfold Obligations.ValidationMeansTheFourRelations
  intro b
  refine ⟨?_, fun c k h => ?_⟩
  · rw [validate, validateOver_none]
    exact ⟨fun h c => (validateEntry_none_iff _).mp (h c (List.mem_finRange c)), fun h c _ => (validateEntry_none_iff _).mpr (h c)⟩
  · obtain ⟨found, first⟩ := validateOver_some h
    obtain ⟨on, fails⟩ := validateEntry_some found
    obtain ⟨notGood, check⟩ := fails.spec
    obtain ⟨-, least⟩ := find_allChannels_eq_some.mp first
    refine ⟨on, notGood, fun d hd => (validateEntry_none_iff _).mp ?_, check⟩
    exact Option.not_isSome_iff_eq_none.mp fun failing => absurd (least d failing) (not_le_of_gt hd)

end Sys2Proof.Machine
end

section
/-! ### COMMIT, CANCEL and BYPASS (R124 to R127, R130, R138) -/

namespace Sys2Proof.Machine

/-- A row takes the command of its code at the head, with its argument bytes, and answers what carrying it out leaves (R171, R172). -/
theorem takeHead_answers {s : State} {c : Command} {rest : List Command} {code : Byte} (hh : AtHead s c rest code) {args : List Byte}
    (ha : c.args = args) {run : List Byte → State → Answer} {status : Status} {result : Result} {t : State}
    (h : run args (taken s rest) = ⟨t, status, result⟩) : act (takeHead (hasCode code) run s) = answers c status result t :=
  takeHead_of (a := ⟨t, status, result⟩) hh (hasCode_of hh) (ha ▸ h)

/-! #### What is pending, and the target (R124, R127, R179) -/

theorem pendingResult_commit {t : TableStore} {k : CommitTarget} (h : t.commit = some k) :
    pendingResult t = some (.pendingCommit k) := by simp [pendingResult, h]

theorem pendingResult_mode {t : TableStore} (hc : t.commit = none) (hm : t.modeChange = true) :
    pendingResult t = some .pendingMode := by simp [pendingResult, hc, hm]

theorem pendingResult_idle {t : TableStore} (hc : t.commit = none) (hm : t.modeChange = false) : pendingResult t = none := by
  simp [pendingResult, hc, hm]

/-- The argument bytes of a COMMIT are read back as its target (R179). -/
theorem targetOf_bytes (k : CommitTarget) : targetOf k.bytes = some k := by
  cases k with
  | next => rfl
  | atCycle n => exact congrArg (fun m => some (CommitTarget.atCycle m)) (word2_bytes n)

theorem targetRefused_noSync {k : Tracker} (h : k.state = .nosync) (n : CycleNo) :
    targetRefused (.atCycle n) k = some (.noSync, .empty) := by simp [targetRefused, h]

theorem targetRefused_late {k : Tracker} {n : CycleNo} (hs : k.state ≠ .nosync) (ha : ahead n k.lastCycle = false) :
    targetRefused (.atCycle n) k = some (.late, .late k.lastCycle) := by simp [targetRefused, hs, ha]

theorem targetRefused_none {t : CommitTarget} {k : Tracker}
    (h : t = .next ∨ ∃ n, t = .atCycle n ∧ k.state ≠ .nosync ∧ ahead n k.lastCycle = true) : targetRefused t k = none := by
  rcases h with rfl | ⟨n, rfl, hs, ha⟩
  · rfl
  · simp [targetRefused, hs, ha]

/-! #### COMMIT (R125) -/

section
variable (s : State) (k : CommitTarget)

theorem runCommit_busy (hf : s.tables.copyInFlight = true) : runCommit k.bytes s = refuse s .busy := by
  simp [runCommit, targetOf_bytes, hf]

variable (hf : s.tables.copyInFlight = false)
include hf

theorem runCommit_pending {what : Result} (hp : pendingResult s.tables = some what) :
    runCommit k.bytes s = refuse s .pending what := by
  simp [runCommit, targetOf_bytes, hf, hp]

variable (hp : pendingResult s.tables = none)
include hp

theorem runCommit_invalid {f : Chan × ValidationCheck} (hv : validate s.tables.stagingBank = some f) :
    runCommit k.bytes s = refuse s .invalid (.invalid f.1 f.2) := by
  simp [runCommit, targetOf_bytes, hf, hp, hv]

variable (hv : validate s.tables.stagingBank = none)
include hv

theorem runCommit_refused {status : Status} {result : Result} (ht : targetRefused k s.tracker = some (status, result)) :
    runCommit k.bytes s = refuse s status result := by
  simp [runCommit, targetOf_bytes, hf, hp, hv, ht]

theorem runCommit_accepted (ht : targetRefused k s.tracker = none) :
    runCommit k.bytes s = ⟨{ s with tables := { s.tables with commit := some k } }, .ok, .target k⟩ := by
  simp [runCommit, targetOf_bytes, hf, hp, hv, ht]

end

/-- Settles O45, by the tests of a COMMIT in their order. -/
theorem commitIsJudgedInOrder : Obligations.CommitIsJudgedInOrder := by
  unfold Obligations.CommitIsJudgedInOrder
  intro s c rest k hh ha
  have answered {status result t} (h : runCommit k.bytes (taken s rest) = ⟨t, status, result⟩) :
      exec .commit s = answers c status result t := takeHead_answers hh ha h
  refine ⟨fun busy => answered (runCommit_busy (taken s rest) k busy), fun hf =>
    ⟨fun t hc => answered (runCommit_pending (taken s rest) k hf (pendingResult_commit hc)),
      fun hc hm => answered (runCommit_pending (taken s rest) k hf (pendingResult_mode hc hm)), fun hc hm => ?_⟩⟩
  have idle : pendingResult (taken s rest).tables = none := pendingResult_idle hc hm
  refine ⟨fun f hv => answered (runCommit_invalid (taken s rest) k hf idle hv), fun hv =>
    ⟨fun n hk hs => ?_, fun n hk hs hl => ?_, fun hk => ?_⟩⟩
  · exact answered (runCommit_refused (taken s rest) k hf idle hv (hk ▸ targetRefused_noSync hs n))
  · exact answered (runCommit_refused (taken s rest) k hf idle hv (hk ▸ targetRefused_late hs hl))
  · exact answered (runCommit_accepted (taken s rest) k hf idle hv (targetRefused_none hk))

/-! #### BYPASS (R138) -/

section
variable (s : State)

theorem runBypass_bypass (hm : s.tables.deviceMode = .bypass) : runBypass [] s = refuse s .mode := by
  simp [runBypass, hm]

variable (hm : s.tables.deviceMode = .active)
include hm

theorem runBypass_pending {what : Result} (hp : pendingResult s.tables = some what) :
    runBypass [] s = refuse s .pending what := by
  simp [runBypass, hm, hp]

variable (hp : pendingResult s.tables = none)
include hp

theorem runBypass_tripped (ht : ∃ g : Grp, (s.group g).state = .tripped) :
    runBypass [] s = refuse s .tripped (.trippedGroups (trippedList s)) := by
  simp [runBypass, hm, hp, (anyTripped_iff s).mpr ht]

theorem runBypass_armed (ha : ∀ g : Grp, (s.group g).state = .armed) :
    runBypass [] s = ⟨{ s with tables := { s.tables with modeChange := true } }, .ok, .empty⟩ := by
  simp [runBypass, hm, hp, anyTripped_of_armed ha]

end

/-- Settles O47: CANCEL has one answer, and BYPASS is taken by its refusals in their order. -/
theorem cancelAndBypassAnswers : Obligations.CancelAndBypassAnswers := by
  unfold Obligations.CancelAndBypassAnswers
  intro s c rest ha
  refine ⟨fun hh => takeHead_answers (run := runCancel) hh ha rfl, fun hh => ?_⟩
  have answered {status result t} (h : runBypass [] (taken s rest) = ⟨t, status, result⟩) :
      exec .bypass s = answers c status result t := takeHead_answers hh ha h
  exact ⟨fun hm => answered (runBypass_bypass (taken s rest) hm),
    fun t hm hc => answered (runBypass_pending (taken s rest) hm (pendingResult_commit hc)),
    fun hm hc hp => answered (runBypass_pending (taken s rest) hm (pendingResult_mode hc hp)),
    fun hm hc hp ht => answered (runBypass_tripped (taken s rest) hm (pendingResult_idle hc hp) ht),
    fun hm hc hp armed => answered (runBypass_armed (taken s rest) hm (pendingResult_idle hc hp) armed)⟩

end Sys2Proof.Machine
end

section
/-! ### The end of a bank copy (R134) -/

namespace Sys2Proof.Machine

/-- Settles O52, by whether a copy is in flight. -/
theorem bankCopyMakesTheBanksEqual : Obligations.BankCopyMakesTheBanksEqual := by
  unfold Obligations.BankCopyMakesTheBanksEqual
  have row : ∀ s : State, exec .bankCopyComplete s = .next (settle (completeCopy s)) := fun _ => rfl
  refine fun s => ⟨fun idle => ?_, fun copying => ⟨s.tables.copied, ?_, ?_⟩⟩
  · rw [row, completeCopy, if_neg (by simp [idle])]
  · rw [row, completeCopy, if_pos copying]
  · obtain ⟨-, commit, modeChange, -, deviceMode⟩ := s.tables.setStaging_rest s.tables.activeBank
    exact ⟨s.tables.setStaging_activeBank _, s.tables.setStaging_stagingBank _, s.tables.setStaging_active _, commit, modeChange,
      deviceMode, rfl, rfl, fun c => by simp [TableStore.copied, Marks.clear], fun g => by simp [TableStore.copied, Marks.clear]⟩

end Sys2Proof.Machine
end

section
/-! ### The fault log grows by submissions alone (R144, R145, R148, R149) -/

namespace Sys2Proof.Machine

/-- One log follows another by one submission (R144, R145). -/
def FaultLog.Submits (l m : FaultLog) : Prop := ∃ n b, m = l.submit n b

/-- One log follows another by submissions alone, any number of them. -/
abbrev FaultLog.Grows : FaultLog → FaultLog → Prop := Relation.ReflTransGen FaultLog.Submits

/-! #### Submissions and the numbers of the records (R144, R145) -/

/-- A record accepted with next_sequence continues the numbers; one discarded leaves them (R144, R145). -/
theorem LogSound.submit {l : FaultLog} (h : LogSound l) (n : Option CycleNo) (b : RecordBody) : LogSound (l.submit n b) := by
  obtain ⟨bounded, numbered⟩ := h
  unfold FaultLog.submit
  split
  · rename_i room
    refine ⟨by simpa using room, fun i hi => ?_⟩
    simp only [List.length_append, List.length_singleton] at hi ⊢
    rcases Nat.lt_or_eq_of_le (Nat.le_of_lt_succ hi) with hi | rfl
    · rw [List.getElem_append_left hi, numbered i hi, Nat.sub_add_comm hi.le, BitVec.ofNat_add]
      exact (add_sub_add_right_eq_sub l.nextSequence _ (1 : Seq)).symm
    · simp
  · exact ⟨bounded, numbered⟩

theorem LogSound.grows {l m : FaultLog} (h : LogSound l) (hg : l.Grows m) : LogSound m := by
  induction hg with
  | refl => exact h
  | tail _ hs ih =>
    obtain ⟨n, b, rfl⟩ := hs
    exact ih.submit n b

/-- Records removed from the front leave the numbers of those behind them (R148, R149). -/
theorem LogSound.behind {l : FaultLog} (h : LogSound l) {back : List LogRecord} (hb : back <:+ l.records) (lost : Nat) :
    LogSound ⟨back, l.nextSequence, lost⟩ := by
  obtain ⟨bounded, numbered⟩ := h
  obtain ⟨front, hl⟩ := hb
  have length : l.records.length = front.length + back.length := by rw [← hl, List.length_append]
  refine ⟨show back.length ≤ 64 by omega, fun i hi => ?_⟩
  have hi : i < back.length := hi
  have here := numbered (front.length + i) (by omega)
  have left : l.records.length - (front.length + i) = back.length - i := by omega
  have same : l.records[front.length + i] = back[i] := by simp [← hl]
  rwa [left, same] at here

/-- An empty log meets the conditions at any next_sequence (R141, R149). -/
theorem logSound_empty (q : Seq) (lost : Nat) : LogSound ⟨[], q, lost⟩ := ⟨Nat.zero_le _, nofun⟩

/-! #### Trip requests and rearms (R104 to R106, R112) -/

theorem submit_grows (n : Option CycleNo) (b : RecordBody) (s : State) : s.log.Grows (submit n b s).log :=
  .single ⟨n, b, rfl⟩

theorem tripRequest_grows (q : TripRequest) (s : State) : s.log.Grows (tripRequest q s).log := by
  rw [tripRequest_log]
  split
  · exact submit_grows ..
  · exact .refl

theorem tripGroups_grows (k : TripCause) (l : List Grp) (s : State) : s.log.Grows (tripGroups k l s).log := by
  induction l generalizing s with
  | nil => exact .refl
  | cons g l ih => exact (tripRequest_grows _ s).trans (ih _)

theorem rearmGroup_grows (how : RearmHow) (g : Grp) (s : State) : s.log.Grows (rearmGroup how g s).log := submit_grows s.stamp _ s

theorem rearmEach_grows (how : RearmHow) (p : GroupEntry → Bool) (l : List Grp) (s : State) :
    s.log.Grows (rearmEach how p l s).log := by
  induction l generalizing s with
  | nil => exact .refl
  | cons g l ih =>
    refine .trans ?_ (ih _)
    split
    · exact rearmGroup_grows how g s
    · exact .refl

theorem groupsOpen_grows (s : State) : s.log.Grows (groupsOpen s).log := by
  rw [groupsOpen_eq]
  exact rearmEach_grows _ _ _ (stepHoldoffs s)

/-! #### Evaluations and the work on a sample (R64, R69 to R75) -/

theorem qualifyFault_grows (c : Chan) (n : CycleNo) (k : ClassSet) (v : Option Sample) (r : ChannelRecord) (s : State) :
    s.log.Grows (qualifyFault c n k v r s).log := by
  have reported : s.log.Grows (faultReported c n k v r s).log := submit_grows _ _ (s.setChannel c (r.qualified k n))
  by_cases hr : ∃ g, Requests s c g
  · obtain ⟨g, hr⟩ := hr
    rw [qualifyFault_requests c n k v r hr]
    exact reported.trans (tripRequest_grows ..)
  · rw [qualifyFault_silent c n k v r fun g hg => hr ⟨g, hg⟩]
    exact reported

/-- An evaluation reports a recovery or a qualified fault, and in every other case nothing (R69 to R73). -/
theorem evaluate_grows (c : Chan) (n : CycleNo) (k : ClassSet) (v : Option Sample) (s : State) :
    s.log.Grows (evaluate c n k v s).log := by
  unfold evaluate
  dsimp only
  repeat' split
  · exact submit_grows _ _ (s.setChannel c _)
  · exact .refl
  · exact .refl
  · exact qualifyFault_grows ..
  · exact .refl
  · exact .refl

theorem staleOver_grows (n : CycleNo) (seen : Vector Bool 96) (l : List Chan) (s : State) : s.log.Grows (staleOver n seen l s).log := by
  induction l generalizing s with
  | nil => exact .refl
  | cons c l ih =>
    refine .trans ?_ (ih _)
    split
    · exact evaluate_grows ..
    · exact .refl

theorem staleTrigger_grows (n : CycleNo) (seen : Vector Bool 96) (s : State) : s.log.Grows (staleTrigger n seen s).log :=
  staleOver_grows n seen allChannels s

theorem staleRun_grows (k : Nat) (n : CycleNo) (s : State) : s.log.Grows (staleRun k n s).log := by
  induction k generalizing n s with
  | zero => exact .refl
  | succ k ih => exact (staleTrigger_grows n clearMap s).trans (ih (n + 1) _)

theorem noteValue_grows (c : Chan) (o : CheckOutcome) (s : State) : s.log.Grows (noteValue c o s).log := by
  unfold noteValue
  dsimp only
  repeat' split
  · exact .refl
  · exact submit_grows _ _ (s.setChannel c _)
  · exact .refl

theorem noteDuplicate_grows (c : Chan) (s : State) : s.log.Grows (noteDuplicate c s).log := by
  unfold noteDuplicate
  split
  · exact .refl
  · exact submit_grows _ _ { s with repeats := s.repeats.set c true }

theorem judge_grows (c : Chan) (x : SampleEntry) (s : State) : s.log.Grows (judge c x s).1.log := by
  unfold judge
  dsimp only
  rw [updateLastGood_log]
  exact (noteValue_grows c _ s).trans (evaluate_grows ..)

theorem sampleWork_grows (x : SampleEntry) (s : State) : s.log.Grows (sampleWork x s).1.log := by
  unfold sampleWork
  repeat' split
  · exact .refl
  · exact .refl
  · exact .refl
  · exact noteDuplicate_grows ..
  · exact judge_grows _ x (s.markSeen _)

/-! #### The tracker's acts (R25 to R39) -/

theorem closing_grows (k : CloseKind) (s : State) : s.log.Grows (closing k s).log := by
  cases k with
  | complete => exact .refl
  | byArrival => exact submit_grows ..
  | byTimer => exact submit_grows ..

theorem closeCycle_grows (k : CloseKind) (s : State) : s.log.Grows (closeCycle k s).log := by
  rw [closeCycle_log]
  exact (closing_grows k s).trans (staleTrigger_grows ..)

theorem swapAtOpen_grows (n : CycleNo) (s : State) : s.log.Grows (swapAtOpen n s).log := by
  unfold swapAtOpen
  repeat' split
  · exact .refl
  · rw [swap_eq]; exact submit_grows ..
  · exact .refl

theorem madeBypass_log (n : CycleNo) (s : State) : (madeBypass n s).log = s.log := by rw [madeBypass_frame]

theorem modeChangeAtOpen_grows (n : CycleNo) (s : State) : s.log.Grows (modeChangeAtOpen n s).log := by
  unfold modeChangeAtOpen
  repeat' split
  · exact submit_grows _ _ { s with tables := { s.tables with modeChange := false } }
  · have made := submit_grows (some n) (.mode .bypass) (madeBypass n s)
    rw [madeBypass_log] at made
    exact made
  · exact .refl

theorem openCycle_grows (n : CycleNo) (i : Nat) (s : State) : s.log.Grows (openCycle n i s).log := by
  have swapped := swapAtOpen_grows n (beginCycle n i s)
  rw [beginCycle_log] at swapped
  rw [openCycle, startTimer_log]
  exact (swapped.trans (modeChangeAtOpen_grows n _)).trans (groupsOpen_grows _)

theorem openAhead_grows (n : CycleNo) (i : Nat) (s : State) : s.log.Grows (openAhead n i s).log := by
  have opened : ∀ {u : State}, s.log.Grows u.log → ∀ x k m, s.log.Grows (openCycle n i (staleRun k m { u with tracker := x })).log :=
    fun {u} hu x k m => (hu.trans (staleRun_grows k m { u with tracker := x })).trans (openCycle_grows n i _)
  have skipped : s.log.Grows (if 0 < skipCount n s.tracker.lastCycle then
      submit s.stamp (.seq .skip (some (skipCount n s.tracker.lastCycle)) (some (n, i))) s else s).log := by
    split
    · exact submit_grows ..
    · exact .refl
  unfold openAhead
  dsimp only
  generalize (if 0 < skipCount n s.tracker.lastCycle then _ else s) = u at skipped ⊢
  split
  · exact opened skipped _ _ _
  · exact (opened skipped _ _ _).trans (submit_grows ..)

theorem arrive_grows (n : CycleNo) (i : Nat) (s : State) : s.log.Grows (arrive n i s).2.log := by
  unfold arrive arriveUnsynced arriveSame discardWith
  split
  · split
    · exact (openCycle_grows n 0 s).trans (submit_grows ..)
    · exact .refl
  · repeat' split
    · exact .refl
    · exact submit_grows ..
    · exact submit_grows ..
    · exact (closeCycle_grows _ s).trans (openAhead_grows n i _)
    · exact submit_grows ..
  · split
    · exact openAhead_grows n i s
    · exact submit_grows ..

theorem linkLoss_grows (s : State) : s.log.Grows (linkLoss s).log := by
  have ended : s.log.Grows (linkEnded s).log := submit_grows ..
  exact ended.trans (tripGroups_grows ..)

theorem lostCycle_grows (s : State) : s.log.Grows (lostCycle s).log := by
  have stale := staleTrigger_grows (s.tracker.lastCycle + 1) clearMap s
  rw [lostCycle_eq]
  generalize staleTrigger (s.tracker.lastCycle + 1) clearMap s = u at stale ⊢
  dsimp only
  split
  · exact stale.trans (linkLoss_grows { u with tracker := countedLost s.tracker })
  · exact stale

theorem tripLineFall_grows (s : State) : s.log.Grows (tripLineFall s).log := by
  cases high : s.tripHigh with
  | false => rw [tripLineFall_low high]
  | true => rw [tripLineFall_high high]; exact tripGroups_grows _ _ (sampledLow s)

theorem completeCopy_log (s : State) : (completeCopy s).log = s.log := by
  unfold completeCopy; split <;> rfl

/-! #### The commands (R110, R114, R115, R148, R149, R182 to R184) -/

/-- What LOG-ACK leaves is the end of the list of records (R148). -/
theorem acknowledge_suffix {q : Seq} {l : List LogRecord} {p : Nat × List LogRecord} (h : acknowledge q l = some p) : p.2 <:+ l := by
  induction l generalizing p with
  | nil => cases h
  | cons r l ih =>
    rw [acknowledge] at h
    split at h
    · cases h; exact List.suffix_cons r l
    · obtain ⟨p', hp', rfl⟩ := Option.map_eq_some_iff.mp h
      exact (ih hp').trans (List.suffix_cons r l)

theorem LogSound.runLogAck {s : State} (h : LogSound s.log) (args : List Byte) : LogSound (runLogAck args s).state.log := by
  unfold Machine.runLogAck
  repeat' split
  · exact h
  · rename_i found
    exact h.behind (acknowledge_suffix found) s.log.lost
  · exact h

theorem LogSound.runLogClear {s : State} (h : LogSound s.log) (args : List Byte) : LogSound (runLogClear args s).state.log := by
  unfold Machine.runLogClear
  split
  · exact h
  · exact logSound_empty ..

theorem LogSound.runReset {s : State} (h : LogSound s.log) (args : List Byte) : LogSound (runReset args s).state.log := by
  unfold Machine.runReset
  split <;> rename_i hs
  · rw [runResetRuntime, if_pos hs, resetRuntimeOp_frame]; exact h
  · rw [runResetLog, if_pos hs]; exact logSound_empty _ 0
  · rw [runResetDevice, if_pos hs]; exact logSound_empty ..
  · exact h

theorem runTrip_grows (args : List Byte) (s : State) : s.log.Grows (runTrip args s).state.log := by
  unfold runTrip
  repeat' split
  · exact .refl
  · exact .refl
  · exact tripGroups_grows ..

theorem runRearm_grows (args : List Byte) (s : State) : s.log.Grows (runRearm args s).state.log := by
  unfold runRearm
  split
  · exact .refl
  · rw [tryRearm_eq]
    dsimp only
    split
    · exact rearmGroup_grows ..
    · exact .refl
  · rw [rearmOver_eq allGroups_nodup]
    exact rearmEach_grows ..

theorem writeItems_log (r : Nat → Nat → Bool) (l : FieldList) (w : TableStore → TableStore) (s : State) :
    (writeItems r l w s).state.log = s.log := by
  unfold writeItems
  repeat' split
  all_goals rfl

/-- LOG-ACK, LOG-CLEAR and RESET remove records from the front, TRIP and REARM submit some, and every other command leaves the log. -/
theorem LogSound.command {s : State} (h : LogSound s.log) {code : Byte} {run : List Byte → State → Answer}
    (hr : (code, run) ∈ commandTable) (args : List Byte) : LogSound (run args s).state.log := by
  have written : ∀ r l w, LogSound (writeItems r l w s).state.log := fun r l w => (writeItems_log r l w s).symm ▸ h
  simp only [commandTable, List.mem_cons, Prod.mk.injEq, List.not_mem_nil, or_false] at hr
  rcases hr with ⟨-, rfl⟩ | ⟨-, rfl⟩ | ⟨-, rfl⟩ | ⟨-, rfl⟩ | ⟨-, rfl⟩ | ⟨-, rfl⟩ | ⟨-, rfl⟩ | ⟨-, rfl⟩ | ⟨-, rfl⟩ | ⟨-, rfl⟩ |
    ⟨-, rfl⟩ | ⟨-, rfl⟩ | ⟨-, rfl⟩ | ⟨-, rfl⟩ | ⟨-, rfl⟩ | ⟨-, rfl⟩ | ⟨-, rfl⟩ | ⟨-, rfl⟩ | ⟨-, rfl⟩ | ⟨-, rfl⟩ | ⟨-, rfl⟩
  · unfold runIdentify; split <;> exact h
  · unfold runStatus; split <;> exact h
  · unfold runReadChannel; repeat' split
    all_goals exact h
  · unfold runWriteChannel; repeat' split
    · exact h
    · exact written ..
    · exact h
  · unfold runReadGroup; repeat' split
    all_goals exact h
  · unfold runWriteGroup; repeat' split
    · exact h
    · exact written ..
    · exact h
  · unfold runReadCycle; repeat' split
    all_goals exact h
  · unfold runWriteCycle; split
    · exact written ..
    · exact h
  · unfold runCommit; repeat' split
    all_goals exact h
  · unfold runCancel; split <;> exact h
  · unfold runBypass; repeat' split
    all_goals exact h
  · unfold runChannelState; repeat' split
    all_goals exact h
  · unfold runGroupState; repeat' split
    all_goals exact h
  · exact h.grows (runTrip_grows args s)
  · exact h.grows (runRearm_grows args s)
  · unfold runLogRead; repeat' split
    all_goals exact h
  · exact h.runLogAck args
  · exact h.runLogClear args
  · unfold runTestCommand; repeat' split
    all_goals exact h
  · unfold runTestResult; repeat' split
    all_goals exact h
  · exact h.runReset args

/-! #### Every step -/

theorem logSound_invariant : Invariant fun s => LogSound s.log where
  onCore {s t} h hc := by
    have log : t.log = s.log := (congrArg State.log hc :)
    rwa [log]
  onReset := logSound_empty ..
  onArrive n i s h := h.grows (arrive_grows n i s)
  onSample x s h := h.grows (sampleWork_grows x s)
  onClose k s _ h := h.grows (closeCycle_grows k s)
  onLostCycle {s} _ h := h.grows (lostCycle_grows s)
  onLinkLoss {s} _ h := h.grows (linkLoss_grows s)
  onTripLine {s} h := h.grows (tripLineFall_grows s)
  onCopy {s} h := (completeCopy_log s).symm ▸ h
  onCommand hm args _ h := h.command hm args

/-- Settles O55: the part's own acts submit records and the commands remove them from the front, which keeps the numbers. -/
theorem logStaysNumbered : Obligations.LogStaysNumbered := by
  unfold Obligations.LogStaysNumbered
  exact fun _ _ => logSound_invariant.onStep

end Sys2Proof.Machine
end

section
/-! ### A submission whole, with the ALERT it places or updates (R144 to R146, R151, R152) -/

namespace Sys2Proof.Machine

theorem FaultLog.submit_below {l : FaultLog} (h : l.records.length < 64) (n : Option CycleNo) (b : RecordBody) :
    l.submit n b = ⟨l.records ++ [⟨l.nextSequence, n, b⟩], l.nextSequence + 1, l.lost⟩ := if_pos h

theorem FaultLog.submit_full {l : FaultLog} (h : 64 ≤ l.records.length) (n : Option CycleNo) (b : RecordBody) :
    l.submit n b = { l with lost := min 65535 (l.lost + 1) } := if_neg (Nat.not_lt.mpr h)

/-- The ALERT of an accepted record names it (R152). -/
theorem alertAfter_below {l : FaultLog} (h : l.records.length < 64) (w : Option WaitingAlert) (n : Option CycleNo) (b : RecordBody) :
    alertAfter l w n b = ⟨some l.nextSequence, some ⟨l.nextSequence, n, b⟩⟩ := if_pos h

/-- The ALERT of a discarded record keeps what the waiting one said of the newest, and carries none (R152). -/
theorem alertAfter_full {l : FaultLog} (h : 64 ≤ l.records.length) (w : Option WaitingAlert) (n : Option CycleNo) (b : RecordBody) :
    alertAfter l w n b = ⟨w.bind (·.newest), none⟩ := if_neg (Nat.not_lt.mpr h)

/-- Settles O22, by whether the log has room. -/
theorem submissionAcceptedOrCounted : Obligations.SubmissionAcceptedOrCounted := by
  unfold Obligations.SubmissionAcceptedOrCounted
  refine fun n b s => ⟨fun room => ?_, fun full => ?_⟩
  · rw [submit, FaultLog.submit_below room, alertAfter_below room]
    rfl
  · rw [submit, FaultLog.submit_full full, alertAfter_full full]
    cases s.alertSlot <;> rfl

end Sys2Proof.Machine
end

section
/-! ### LOG-ACK and LOG-CLEAR (R148, R149) -/

namespace Sys2Proof.Machine

/-- A sequence is the number that the two argument bytes make (R175, R196). -/
theorem eq_word2_iff (q : Seq) (a b : Byte) : q = word2 a b ↔ q.toNat = a.toNat * 256 + b.toNat := by
  rw [← BitVec.toNat_inj, word2_toNat]

theorem runLogAck_found {a b : Byte} {s : State} {p : Nat × List LogRecord}
    (h : acknowledge (word2 a b) s.log.records = some p) :
    runLogAck [a, b] s = ⟨{ s with log := { s.log with records := p.2 } }, .ok, .logAcked p.1 p.2.length⟩ := by
  simp only [runLogAck, h]

theorem runLogAck_unknown {a b : Byte} {s : State} (h : acknowledge (word2 a b) s.log.records = none) :
    runLogAck [a, b] s = refuse s .badArg := by
  simp only [runLogAck, h]

theorem runLogClear_nil (s : State) :
    runLogClear [] s = ⟨clearLog s, .ok, .logCleared s.log.records.length s.log.lost⟩ := rfl

/-- Settles O48: LOG-ACK by the record it finds, LOG-CLEAR by its one answer. -/
theorem logAckAndClearRemoveFromTheFront : Obligations.LogAckAndClearRemoveFromTheFront := by
  unfold Obligations.LogAckAndClearRemoveFromTheFront
  intro s c rest
  refine ⟨fun a b hh ha => ⟨fun front back r hl hr hf => ?_, fun unknown => ?_⟩, fun hh ha => ?_⟩
  · have hr : r.sequence = word2 a b := (eq_word2_iff ..).mpr hr
    have found : acknowledge (word2 a b) (taken s rest).log.records = some (front.length + 1, back) :=
      hl ▸ acknowledge_some _ front back r hr fun x hx => hr ▸ hf x hx
    exact takeHead_answers hh ha (runLogAck_found found)
  · have missed : acknowledge (word2 a b) (taken s rest).log.records = none :=
      acknowledge_none _ _ fun x hx => mt (eq_word2_iff ..).mp (unknown x hx)
    exact takeHead_answers hh ha (runLogAck_unknown missed)
  · exact takeHead_answers hh ha (runLogClear_nil (taken s rest))

end Sys2Proof.Machine
end

section
/-! ### The Arbiter's choices by R192's table (R153, R154, R191, R192, R194) -/

namespace Sys2Proof.Machine

/-! #### The table -/

section
variable {s : State}

theorem arbiterChoice_alert {w : WaitingAlert} (ha : s.alertSlot = some w) (turn : s.slotOwed = true ∨ s.headReady = false) :
    arbiterChoice s = some (⟨.alert (alertFrame w s), false, false⟩, { s with alertSlot := none, slotOwed := false }) := by
  rw [arbiterChoice, if_pos (by simpa [State.outbound, ha] using turn), takeOutbound, ha]

theorem arbiterChoice_reply {r : Reply} {rest : List Reply} (ha : s.alertSlot = none) (hr : s.replies = r :: rest)
    (turn : s.slotOwed = true ∨ s.headReady = false) :
    arbiterChoice s = some (⟨.reply r, false, false⟩, { s with replies := rest, slotOwed := false }) := by
  rw [arbiterChoice, if_pos (by simpa [State.outbound, ha, hr] using turn), takeOutbound, ha, hr]

theorem arbiterChoice_forwarded {q : Queued} {rest : List Queued} (hf : s.forward = q :: rest) (hq : q.complete = true)
    (turn : s.slotOwed = false ∨ (s.alertSlot = none ∧ s.replies = [])) :
    arbiterChoice s = some (⟨q.frame, q.ending, q.underway⟩, { s with forward := rest }) := by
  have ready : s.headReady = true := by rw [State.headReady, hf]; exact hq
  have waits : (s.outbound && (s.slotOwed || !s.headReady)) = false := by
    rcases turn with owed | empty
    · simp [owed, ready]
    · simp [State.outbound_eq_false.mpr empty]
  rw [arbiterChoice, waits, if_neg Bool.false_ne_true, if_pos ready, takeForward, hf]

theorem arbiterChoice_nothing (ha : s.alertSlot = none) (hr : s.replies = []) (hh : s.headReady = false) :
    arbiterChoice s = none := by
  rw [arbiterChoice, State.outbound_eq_false.mpr ⟨ha, hr⟩, hh]
  rfl

end

/-! #### What settle makes of a choice (R192, R194) -/

/-- The frames that wait for port D (R189, R191). -/
def framesWaiting (s : State) : Nat := s.forward.length + s.replies.length + if s.alertSlot.isSome then 1 else 0

/-- A choice takes one frame from its queue (R192). -/
theorem framesWaiting_arbiterChoice {s s' : State} {f : OnLine} (h : arbiterChoice s = some (f, s')) :
    framesWaiting s' + 1 = framesWaiting s := by
  unfold arbiterChoice at h
  split at h
  · rename_i turn
    obtain ⟨outbound, -⟩ := Bool.and_eq_true_iff.mp turn
    obtain ⟨f', replies, slot, taken, -, count⟩ := takeOutbound_some outbound
    rw [taken] at h
    cases h
    simp only [framesWaiting]
    omega
  · split at h
    · unfold takeForward at h
      split at h <;> cases h
      rename_i forward
      simp only [framesWaiting, forward, List.length_cons]
      omega
    · cases h

theorem framesWaiting_lt_choicesLeft (s : State) : framesWaiting s < choicesLeft s := by
  unfold framesWaiting choicesLeft
  split <;> omega

theorem settle_up {s s' : State} {f : OnLine} (hu : s.upD = true) (ht : s.txD = none) (h : arbiterChoice s = some (f, s')) :
    settle s = returnSend { s' with txD := some f } := by
  rw [settle, choicesLeft, arbitrate_up hu ht h]

/-- While port D is DOWN, choices enough for the frames that wait are as good as any number more (R194). -/
theorem arbitrate_enough {s : State} (hd : s.upD = false) (ht : s.txD = none) {j k : Nat} (hj : framesWaiting s < j)
    (hk : framesWaiting s < k) : arbitrate j s = arbitrate k s := by
  rw [arbitrate_down hd ht j hj, arbitrate_down hd ht k hk]

theorem arbitrate_discard {s s' : State} {f : OnLine} (hd : s.upD = false) (ht : s.txD = none) (h : arbiterChoice s = some (f, s'))
    (k : Nat) : arbitrate (k + 1) s = arbitrate k { s' with slotOwed := s'.slotOwed || f.ending } := by
  rw [arbitrate, h]
  simp [hd, ht]

/-- A discarded frame is the first of the choices made while port D is DOWN: those after it are made as if it had never waited (R194). -/
theorem settle_discard {s s' : State} {f : OnLine} (hd : s.upD = false) (ht : s.txD = none) (h : arbiterChoice s = some (f, s')) :
    settle s = settle { s' with slotOwed := s'.slotOwed || f.ending } := by
  have frame := arbiterChoice_frame h
  have upD : s'.upD = false := by rw [frame]; exact hd
  have txD : s'.txD = none := by rw [frame]; exact ht
  have enough : framesWaiting s' < s.forward.length + s.replies.length + 1 := by
    have one := framesWaiting_arbiterChoice h
    have all := framesWaiting_lt_choicesLeft s
    unfold choicesLeft at all
    omega
  rw [settle, choicesLeft, arbitrate_discard hd ht h]
  refine congrArg returnSend (arbitrate_enough ?_ ?_ ?_ ?_)
  exacts [upD, txD, enough, framesWaiting_lt_choicesLeft _]

theorem settle_nothing {s : State} (h : arbiterChoice s = none) : settle s = returnSend s := by
  rw [settle, arbitrate_none h]

/-- While port D is DOWN all that can be chosen is discarded (R192, R194). -/
theorem settle_down {s : State} (hd : s.upD = false) (ht : s.txD = none) :
    settle s = returnSend
      { s with forward := s.forward.dropWhile (·.complete), replies := [], alertSlot := none,
               slotOwed := decide (s.replies.length + (if s.alertSlot.isSome then 1 else 0) <
                 (s.forward.takeWhile (·.complete)).countP (·.ending) + (if s.slotOwed then 1 else 0)) } := by
  rw [settle, arbitrate_down hd ht _ (framesWaiting_lt_choicesLeft s)]

/-- Between steps no SEG is incomplete, and a port D that is DOWN leaves no forward frame (R189, R194). -/
theorem settle_down_forward {s : State} (hd : s.upD = false) (ht : s.txD = none) (hf : ForwardSettled s) : (settle s).forward = [] := by
  rw [settle_down hd ht, returnSend_forward]
  exact List.dropWhile_eq_nil_iff.mpr fun q hq => (hf.1 q hq).1

/-- Settles O21: each row of the table is a choice, which settle sends while port D is UP and discards while it is DOWN. -/
theorem arbiterChoosesByItsTable : Obligations.ArbiterChoosesByItsTable := by
  unfold Obligations.ArbiterChoosesByItsTable
  intro s
  refine ⟨fun busy => ?_, fun _ ha hr hh => settle_nothing (arbiterChoice_nothing ha hr hh), fun hu ht => ⟨?_, ?_, ?_⟩,
    fun hd ht => ⟨?_, ?_, ?_, settle_down hd ht, settle_down_forward hd ht⟩⟩
  · rw [settle, arbitrate_busy (Option.isSome_iff_ne_none.mpr busy)]
  · exact fun w ha turn => settle_up hu ht (arbiterChoice_alert ha turn)
  · exact fun r rest ha hr turn => settle_up hu ht (arbiterChoice_reply ha hr turn)
  · exact fun q rest hf hq turn => settle_up hu ht (arbiterChoice_forwarded hf hq turn)
  · exact fun w ha turn => settle_discard hd ht (arbiterChoice_alert ha turn)
  · exact fun r rest ha hr turn => settle_discard hd ht (arbiterChoice_reply ha hr turn)
  · exact fun q rest hf hq turn => settle_discard hd ht (arbiterChoice_forwarded hf hq turn)

end Sys2Proof.Machine
end

section
/-! ### What a run of each kind finds (R160 to R164) -/

namespace Sys2Proof.Machine

/-! #### The scratch window of a QUALIFY run (R163) -/

/-- A violating verdict fed into a window that has room for it adds one to a run of violating ones. -/
theorem pushVerdict_violating {window fed : Nat} (room : fed < window) :
    pushVerdict window (List.replicate fed .violating) .violating = List.replicate (fed + 1) .violating := by
  rw [pushVerdict, ← List.replicate_succ, List.take_replicate, Nat.min_eq_right room]

theorem countViolating_replicate (n : Nat) : countViolating (List.replicate n .violating) = n := by
  simp [countViolating, List.countP_replicate]

/-- Only violating verdicts are fed, so a threshold within the window and within the verdicts left is reached by as many as it says. -/
theorem feedScratch_reaches {window threshold : Nat} (within : threshold ≤ window) (left fed : Nat) (below : fed < threshold)
    (enough : threshold ≤ fed + left) :
    feedScratch window threshold left fed (List.replicate fed .violating) = some threshold := by
  induction left generalizing fed with
  | zero => omega
  | succ left ih =>
    rw [feedScratch, pushVerdict_violating (below.trans_le within), countViolating_replicate]
    split
    · next reached => exact congrArg some (Nat.le_antisymm below reached)
    · next short => exact ih (fed + 1) (Nat.lt_of_not_le short) (by omega)

/-- The count that qualifies under a validated entry is its threshold P (R163). -/
theorem qualifyFinding_validated {e : ChannelEntry} (hp : 1 ≤ e.threshold) (hw : e.threshold ≤ e.window) (h16 : e.window ≤ 16)
    (expected : Nat) : qualifyFinding e expected = passIf (expected == e.threshold) (some (.count e.threshold)) := by
  have count : feedScratch e.window e.threshold 16 0 [] = some e.threshold := feedScratch_reaches hw 16 0 hp (by omega)
  rw [qualifyFinding, count, Option.some_beq_some, Bool.beq_comm]
  rfl

/-! #### The other kinds (R161, R162, R164) -/

/-- LIMIT agrees where HIGH and LOW each agree (R161). -/
theorem limitFinding_eq (e : ChannelEntry) (x : Sample) (high low : Bool) :
    limitFinding e x high low =
      passIf (raisesHigh e (conditioned e x) == high && raisesLow e (conditioned e x) == low)
        (some (.classes (.ofChecks (raisesHigh e (conditioned e x)) (raisesLow e (conditioned e x)) false))) := by
  have agree : ∀ h l h' l' : Bool, (ClassSet.ofChecks h l false == ClassSet.ofChecks h' l' false) = (h == h' && l == l') := by decide
  rw [limitFinding, agree]

theorem rateFinding_none {r : ChannelRecord} (h : r.rateBase = none) (e : ChannelEntry) (x : Sample) (expected : Bool) :
    rateFinding e r x expected = ⟨.fail, none, some .noBase⟩ := by
  simp only [rateFinding, h]

theorem rateFinding_some {r : ChannelRecord} {b : Sample} (h : r.rateBase = some b) (e : ChannelEntry) (x : Sample)
    (expected : Bool) :
    rateFinding e r x expected =
      passIf (raisesRate e (some b) (conditioned e x) == expected)
        (some (.classes (.ofChecks false false (raisesRate e (some b) (conditioned e x))))) := by
  simp only [rateFinding, h]

/-- The table of R97 over every mode: its last row is the held value as SUBST, for a channel that is not GUARD, one that is not FAULTED,
and the reaction HOLD. -/
theorem fillValue_rows (s : State) (c : Chan) :
    fillValue s c =
      (let e := s.entry c
       let held := (s.channel c).lastGood.getD e.safeValue
       if e.mode = .guard ∧ ∃ g : Grp, e.group = some g ∧ (s.group g).state = .tripped then (e.safeValue, .subst)
       else if e.mode = .guard ∧ (s.channel c).state = .faulted ∧ e.reaction = .safe then (e.safeValue, .subst)
       else if e.mode = .guard ∧ (s.channel c).state = .faulted ∧ e.reaction = .mark then (held, .bad)
       else (held, .subst)) := by
  unfold fillValue heldValue
  simp only [← groupTripped_iff]
  by_cases guard : (s.entry c).mode = .guard
  · by_cases faulted : (s.channel c).state = .faulted
    · cases (s.entry c).reaction <;> simp [guard, faulted]
    · simp [guard, faulted]
  · simp [guard]

/-! #### The run (R160) -/

theorem testFinding_off {s : State} {p : PendingTest} (h : (s.entry p.channel).mode = .off) :
    testFinding p s = ⟨.aborted, none, some .off⟩ := if_pos h

section
variable {s : State} {k : Chan} (on : (s.entry k).mode ≠ .off) (x : Sample)
include on

theorem testFinding_limit (high low : Bool) : testFinding ⟨.limit high low, k, x⟩ s = limitFinding (s.entry k) x high low :=
  if_neg on

theorem testFinding_rate (yes : Bool) : testFinding ⟨.rate yes, k, x⟩ s = rateFinding (s.entry k) (s.channel k) x yes := if_neg on

theorem testFinding_qualify (n : Nat) : testFinding ⟨.qualify n, k, x⟩ s = qualifyFinding (s.entry k) n := if_neg on

theorem testFinding_fill (w : Sample) : testFinding ⟨.fill w, k, x⟩ s = fillFinding s k w := if_neg on

end

/-- Settles O50, by the channel's mode, the kind of the test and, for RATE, the baseline. -/
theorem testFindsWhatTheChecksWouldFind : Obligations.TestFindsWhatTheChecksWouldFind := by
  unfold Obligations.TestFindsWhatTheChecksWouldFind
  intro s k x
  refine ⟨fun p => testFinding_off, fun on => ⟨fun high low => ?_, fun yes base => ?_, fun yes b base => ?_,
    fun n hp hw h16 => ?_, fun w => ?_⟩⟩
  · rw [testFinding_limit on, limitFinding_eq]
    rfl
  · rw [testFinding_rate on, rateFinding_none base]
  · rw [testFinding_rate on, rateFinding_some base]
    rfl
  · rw [testFinding_qualify on, qualifyFinding_validated hp hw h16]
    rfl
  · rw [testFinding_fill on, fillFinding, fillValue_rows]
    rfl

end Sys2Proof.Machine
end

section
/-! ### What every row keeps of the ports and queues, from what their own operations keep (R168, R171, R187 to R195; log 5) -/

namespace Sys2Proof.Machine

/-! #### The part before its blocks -/

/-- The part without its blocks, pins, counters and waiting ALERT: the link states and the receivers, port D's line, the queues, the Command
FIFO and the steps that wait. -/
def State.outer (s : State) : State :=
  { State.reset with
    upU := s.upU, upD := s.upD, rxU := s.rxU, rxD := s.rxD, txD := s.txD, forward := s.forward, ret := s.ret
    replies := s.replies, cmdFifo := s.cmdFifo, pending := s.pending }

theorem submit_outer (n : Option CycleNo) (b : RecordBody) (s : State) : (submit n b s).outer = s.outer := rfl

theorem countCheckError_outer (p : Port) (s : State) : (countCheckError p s).outer = s.outer := by cases p <;> rfl

theorem countFormatError_outer (p : Port) (s : State) : (countFormatError p s).outer = s.outer := by cases p <;> rfl

theorem forwardOverrun_outer (s : State) : (forwardOverrun s).outer = s.outer := rfl

/-! #### The blocks' acts (R29, R31, R33, R36, R39, R108, R134) -/

theorem linkLoss_outer (s : State) : (linkLoss s).outer = s.outer := by simp [State.outer]

theorem lostCycle_outer (s : State) : (lostCycle s).outer = s.outer := by simp [State.outer]

theorem tripLineFall_outer (s : State) : (tripLineFall s).outer = s.outer := by simp [State.outer]

theorem completeCopy_outer (s : State) : (completeCopy s).outer = s.outer := by
  unfold completeCopy; split <;> rfl

theorem openCycle_outer (n : CycleNo) (i : Nat) (s : State) : (openCycle n i s).outer = s.outer := by simp [State.outer]

theorem staleTrigger_outer (n : CycleNo) (seen : Vector Bool 96) (s : State) : (staleTrigger n seen s).outer = s.outer := by simp [State.outer]

theorem staleRun_outer (k : Nat) (n : CycleNo) (s : State) : (staleRun k n s).outer = s.outer := by simp [State.outer]

theorem runPendingTest_outer (n : CycleNo) (s : State) : (runPendingTest n s).outer = s.outer := by simp [State.outer]

theorem closing_outer (k : CloseKind) (s : State) : (closing k s).outer = s.outer := by
  cases k <;> rfl

theorem openAhead_outer (n : CycleNo) (i : Nat) (s : State) : (openAhead n i s).outer = s.outer := by
  unfold openAhead
  dsimp only
  repeat' split
  all_goals simp [State.outer]

theorem judge_outer (c : Chan) (x : SampleEntry) (s : State) : (judge c x s).1.outer = s.outer := by
  simp [State.outer, judge]

theorem sampleWork_outer (x : SampleEntry) (s : State) : (sampleWork x s).1.outer = s.outer := by
  unfold sampleWork
  repeat' split
  · rfl
  · rfl
  · rfl
  · simp [State.outer]
  · exact judge_outer ..

/-! #### The commands (R16, R110 to R115, R182 to R184) -/

theorem writeItems_outer (r : Nat → Nat → Bool) (l : FieldList) (w : TableStore → TableStore) (s : State) :
    (writeItems r l w s).state.outer = s.outer := by
  unfold writeItems
  repeat' split
  all_goals rfl

theorem tripGroups_outer (k : TripCause) (l : List Grp) (s : State) : (tripGroups k l s).outer = s.outer := by simp [State.outer]

theorem tryRearm_outer (how : RearmHow) (g : Grp) (s : State) : (tryRearm how g s).1.outer = s.outer := by
  unfold tryRearm
  repeat' split
  all_goals simp [State.outer]

theorem rearmOver_outer (l : List Grp) (s : State) : (rearmOver l s).1.outer = s.outer := by
  induction l generalizing s with
  | nil => rfl
  | cons g l ih => exact (ih _).trans (tryRearm_outer ..)

theorem runWriteChannel_outer (args : List Byte) (s : State) : (runWriteChannel args s).state.outer = s.outer := by
  unfold runWriteChannel
  repeat' split
  · rfl
  · exact writeItems_outer ..
  · rfl

theorem runWriteGroup_outer (args : List Byte) (s : State) : (runWriteGroup args s).state.outer = s.outer := by
  unfold runWriteGroup
  repeat' split
  · rfl
  · exact writeItems_outer ..
  · rfl

theorem runWriteCycle_outer (args : List Byte) (s : State) : (runWriteCycle args s).state.outer = s.outer := by
  unfold runWriteCycle
  split
  · exact writeItems_outer ..
  · rfl

theorem runTrip_outer (args : List Byte) (s : State) : (runTrip args s).state.outer = s.outer := by
  unfold runTrip
  repeat' split
  · rfl
  · rfl
  · exact tripGroups_outer ..

theorem runRearm_outer (args : List Byte) (s : State) : (runRearm args s).state.outer = s.outer := by
  unfold runRearm
  split
  · rfl
  · exact tryRearm_outer ..
  · dsimp only; exact rearmOver_outer allGroups s

theorem resetRuntimeOp_outer (s : State) : (resetRuntimeOp s).outer = s.outer := by
  simp [State.outer, resetRuntimeOp]

theorem runReset_outer (args : List Byte) (s : State) :
    (runReset args s).state.outer = s.outer ∨ (runReset args s).state = resetDeviceOp s := by
  unfold runReset
  split <;> rename_i hs
  · rw [runResetRuntime, if_pos hs]; exact .inl (resetRuntimeOp_outer s)
  · rw [runResetLog, if_pos hs]; exact .inl rfl
  · rw [runResetDevice, if_pos hs]; exact .inr rfl
  · exact .inl rfl

/-- But for RESET DEVICE no command reaches the ports, the queues or the steps that wait (R174 to R184). -/
theorem commandTable_outer {code : Byte} {run : List Byte → State → Answer} (h : (code, run) ∈ commandTable) (args : List Byte)
    (s : State) : (run args s).state.outer = s.outer ∨ (run args s).state = resetDeviceOp s := by
  simp only [commandTable, List.mem_cons, Prod.mk.injEq, List.not_mem_nil, or_false] at h
  rcases h with ⟨-, rfl⟩ | ⟨-, rfl⟩ | ⟨-, rfl⟩ | ⟨-, rfl⟩ | ⟨-, rfl⟩ | ⟨-, rfl⟩ | ⟨-, rfl⟩ | ⟨-, rfl⟩ | ⟨-, rfl⟩ | ⟨-, rfl⟩ |
    ⟨-, rfl⟩ | ⟨-, rfl⟩ | ⟨-, rfl⟩ | ⟨-, rfl⟩ | ⟨-, rfl⟩ | ⟨-, rfl⟩ | ⟨-, rfl⟩ | ⟨-, rfl⟩ | ⟨-, rfl⟩ | ⟨-, rfl⟩ | ⟨-, rfl⟩
  · unfold runIdentify; split <;> exact .inl rfl
  · unfold runStatus; split <;> exact .inl rfl
  · unfold runReadChannel; repeat' split
    all_goals exact .inl rfl
  · exact .inl (runWriteChannel_outer args s)
  · unfold runReadGroup; repeat' split
    all_goals exact .inl rfl
  · exact .inl (runWriteGroup_outer args s)
  · unfold runReadCycle; repeat' split
    all_goals exact .inl rfl
  · exact .inl (runWriteCycle_outer args s)
  · unfold runCommit; repeat' split
    all_goals exact .inl rfl
  · unfold runCancel; split <;> exact .inl rfl
  · unfold runBypass; repeat' split
    all_goals exact .inl rfl
  · unfold runChannelState; repeat' split
    all_goals exact .inl rfl
  · unfold runGroupState; repeat' split
    all_goals exact .inl rfl
  · exact .inl (runTrip_outer args s)
  · exact .inl (runRearm_outer args s)
  · unfold runLogRead; repeat' split
    all_goals exact .inl rfl
  · unfold runLogAck; repeat' split
    all_goals exact .inl rfl
  · unfold runLogClear; split <;> exact .inl rfl
  · unfold runTestCommand; repeat' split
    all_goals exact .inl rfl
  · unfold runTestResult; repeat' split
    all_goals exact .inl rfl
  · exact runReset_outer args s

/-- A RESET row carries out RESET where the command names its scope, and nothing else (R182). -/
theorem resetRow_outer {scope : ResetScope} {run : List Byte → State → Answer}
    (hrun : ∀ args s, run args s = if scopeOf args = some scope then runReset args s else refuse s .badArg) (args : List Byte)
    (s : State) : (run args s).state.outer = s.outer ∨ (run args s).state = resetDeviceOp s := by
  rw [hrun]
  split
  · exact runReset_outer args s
  · exact .inl rfl

/-- Every row of a management command takes the head by some condition on it, and carries out a command that reaches the ports and queues
only as RESET DEVICE does (R171, R182). -/
theorem commandRows_takeHead {i : Instr} (h : i ∈ commandRows) :
    ∃ is run, (∀ s, exec i s = act (takeHead is run s)) ∧
      ∀ args s, (run args s).state.outer = s.outer ∨ (run args s).state = resetDeviceOp s := by
  have named {run : List Byte → State → Answer} (hm : run ∈ commandTable.map Prod.snd) (args : List Byte) (s : State) :
      (run args s).state.outer = s.outer ∨ (run args s).state = resetDeviceOp s := by
    obtain ⟨p, hp, rfl⟩ := List.mem_map.mp hm
    exact commandTable_outer hp args s
  simp only [commandRows, List.mem_cons, List.not_mem_nil, or_false] at h
  rcases h with rfl | rfl | rfl | rfl | rfl | rfl | rfl | rfl | rfl | rfl | rfl | rfl | rfl | rfl | rfl | rfl | rfl | rfl | rfl | rfl |
    rfl | rfl | rfl | rfl
  iterate 20 exact ⟨_, _, fun _ => rfl, named (by simp [commandTable])⟩
  · exact ⟨_, _, fun _ => rfl, resetRow_outer runResetRuntime_eq⟩
  · exact ⟨_, _, fun _ => rfl, resetRow_outer runResetLog_eq⟩
  · exact ⟨_, _, fun _ => rfl, resetRow_outer runResetDevice_eq⟩
  · exact ⟨_, _, fun _ => rfl, fun _ _ => .inl rfl⟩

end Sys2Proof.Machine
end

section
/-! ### An invariant of the ports and queues, through every row (R168, R171, R187 to R195; log 5) -/

namespace Sys2Proof.Machine

/-- How far the tracker is with a SEG of port U: it is taking none, works its samples, or has worked the last of them and may still close the
cycle (R41, R189). -/
inductive Taking where
  | none
  | working
  | worked

/-- A condition, one for each stage of the taking of a SEG, that is read from the ports and queues, and that their own operations keep. -/
structure OuterInvariant (P : Taking → State → Prop) : Prop where
  onOuter : ∀ {k : Taking} {s t : State}, P k s → t.outer = s.outer → P k t
  onPowerOn : ∀ {s : State}, P .none s → P .none { State.reset with pending := s.pending }
  onSettle : ∀ {k : Taking} {s : State}, P k s → P k (settle s)
  onTransmitEnd : ∀ (p : Port) {k : Taking} {s : State}, P k s → P k (transmitEnd p s)
  onFill : ∀ (close : CloseKind) (n : CycleNo) {k : Taking} {s : State}, P k s → P k (fillStage close n s)
  onReturn : ∀ (l : List Byte) {k : Taking} {s : State}, P k s → P k (enterReturn l s)
  onOffer : ∀ (c : Command) {k : Taking} {s : State}, P k s → P k (offerCommand c s)
  onForward : ∀ (l : List Byte) {k : Taking} {s : State}, s.forwardRoom = true → P k s → P k (enterForward (.passed l) s)
  onSymbols : ∀ (p : Port) (l : List Symbol) {k : Taking} {s : State}, P k s → P k (s.setRx p ((s.rx p).run (s.up p) l).1)
  onUp : ∀ (p : Port) (l : List Symbol) {k : Taking} {s : State} {rest : List Symbol},
    ((s.rx p).run (s.up p) l).2 = some (.comesUp, rest) → P k s → P k (portUpOp p (s.setRx p ((s.rx p).run (s.up p) l).1))
  onDownD : ∀ {k : Taking} {s : State}, P k s → P k (portDDownOp s)
  onCutOffU : ∀ {k : Taking} {s : State}, P k s → P k (cutOffU s)
  onTaken : ∀ {k : Taking} {s : State} {c : Command} {rest : List Command}, s.cmdFifo = c :: rest → P k s → P k (taken s rest)
  onReply : ∀ (c : Command) (status : Status) (result : Result) {k : Taking} {s : State}, mayTake c s = true → P k s →
    P k (placeReply c status result s)
  onResetDevice : ∀ {k : Taking} {s : State}, P k s → P k (resetDeviceOp s)
  onEnter : ∀ (g : Segment) {s : State}, s.forwardRoom = true → P .none s → P .working (enterSegment g s)
  onDrop : ∀ (g : Segment) {s t : State}, P .none s → t.outer = (enterSegment g s).outer → P .none (dropIncomplete t)
  onRewrite : ∀ (g : Segment) (l : List SampleEntry) {s : State}, P .working s → P .working (rewriteEntries g l s)
  onComplete : ∀ {s : State}, P .working s → P .worked (completeFrames s)
  onOver : ∀ {s : State}, P .worked s → P .none (segmentOver s)

/-- An arrival that opens no cycle out of turn leaves the ports and queues; one ahead in OPEN closes the cycle first (R24 to R30). -/
theorem arrive_outer (n : CycleNo) (i : Nat) (s : State) :
    (arrive n i s).2.outer = s.outer ∨ (arrive n i s).2.outer = (closeCycle (.byArrival n i) s).outer := by
  unfold arrive arriveUnsynced arriveSame discardWith
  split
  · split
    · exact .inl ((submit_outer ..).trans (openCycle_outer n 0 s))
    · exact .inl rfl
  · repeat' split
    · exact .inl rfl
    · exact .inl (submit_outer ..)
    · exact .inl (submit_outer s.stamp (.seq .segGap none (some (n, i))) s)
    · exact .inr (openAhead_outer n i _)
    · exact .inl (submit_outer ..)
  · split
    · exact .inl (openAhead_outer n i s)
    · exact .inl (submit_outer ..)

/-- A discarded segment leaves the ports and queues as it found them (R25, R26, R30). -/
theorem arrive_discarded_outer {n : CycleNo} {i : Nat} {s : State} (h : (arrive n i s).1 = false) :
    (arrive n i s).2.outer = s.outer := by
  obtain ⟨f, hf, harr⟩ := arrive_discarded h
  rw [harr s rfl]
  rcases hf with rfl | ⟨m, b, rfl⟩ <;> rfl

/-- No command takes the reply place that was free for it (R171, R172). -/
theorem mayTake_after {c : Command} {s t : State} (h : mayTake c s = true) (ht : t.outer = s.outer ∨ t = resetDeviceOp s) :
    mayTake c t = true := by
  rcases ht with ht | rfl
  · have hreplies : t.outer.replies = s.outer.replies := by rw [ht]
    change t.replies = s.replies at hreplies
    rwa [mayTake, hreplies]
  · exact Bool.or_true _

namespace OuterInvariant

variable {P : Taking → State → Prop} (inv : OuterInvariant P) {k : Taking} {s : State}
include inv

/-! #### Closes and arrivals (R24 to R34) -/

theorem onClose (close : CloseKind) (hs : P k s) : P k (closeCycle close s) := by
  rw [closeCycle_eq]
  have ready : P k (staleTrigger s.tracker.lastCycle s.tracker.seen (closing close s)) :=
    inv.onOuter hs ((staleTrigger_outer ..).trans (closing_outer close s))
  exact inv.onOuter (inv.onFill close _ ready) (runPendingTest_outer ..)

theorem onArrive (n : CycleNo) (i : Nat) (hs : P k s) : P k (arrive n i s).2 := by
  rcases arrive_outer n i s with h | h
  · exact inv.onOuter hs h
  · exact inv.onOuter (inv.onClose _ hs) h

theorem onTimer (hs : P k s) : P k (timerExpiry s) := by
  unfold timerExpiry
  repeat' split
  · exact hs
  · exact hs
  · exact inv.onClose .byTimer hs
  · exact inv.onOuter hs (lostCycle_outer s)

/-! #### Commands (R168 to R172) -/

/-- The carrying out of the command at the head, whose reply finds the place that was free (R171, R172). -/
theorem onTakeHead (is : Command → Bool) {run : List Byte → State → Answer}
    (hrun : ∀ args u, (run args u).state.outer = u.outer ∨ (run args u).state = resetDeviceOp u) (hs : P k s) :
    P k (takeHead is run s) := by
  unfold takeHead
  split
  · exact hs
  · rename_i c rest hc
    split
    · rename_i hi
      obtain ⟨-, hroom⟩ := Bool.and_eq_true_iff.mp hi
      have htaken : P k (taken s rest) := inv.onTaken hc hs
      have hafter := hrun c.args (taken s rest)
      refine inv.onReply c _ _ (mayTake_after (s := taken s rest) hroom hafter) ?_
      rcases hafter with h | h
      · exact inv.onOuter htaken h
      · exact (congrArg (P k) h).mpr (inv.onResetDevice htaken)
    · exact hs

theorem onExecutor (hs : P k s) : P k (executorTakes s) := by
  unfold executorTakes
  split
  · exact hs
  · refine inv.onTakeHead _ (fun args u => ?_) hs
    cases hcat : catalogue _ with
    | none => exact .inl rfl
    | some run => exact commandTable_outer (catalogue_mem hcat) args u

theorem onSortCommand (payload whole : List Byte) (hs : P k s) : P k (sortCommand payload whole s) := by
  unfold sortCommand
  split
  · split
    · have sent := inv.onReturn whole hs
      unfold offerBroadcast
      split
      · exact inv.onOffer _ sent
      · exact inv.onOuter sent rfl
    · split
      · exact inv.onOffer _ hs
      · exact inv.onReturn whole hs
  · exact hs

/-! #### The ports (R187, R188, R194, R195) -/

theorem onTakeLine (p : Port) {on : RxEvent → State → State} (hup : ∀ u, on .comesUp u = portUpOp p u)
    (hon : ∀ e {u : State}, e ≠ .comesUp → P k u → P k (on e u)) (l : List Symbol) (hs : P k s) : P k (takeLine p on l s) := by
  rw [takeLine_eq]
  have kept := inv.onSymbols p l hs
  split
  · exact kept
  · rename_i e he
    obtain ⟨e, rest⟩ := e
    by_cases h : e = .comesUp
    · subst h
      rw [hup]
      exact inv.onUp p l he hs
    · exact hon e h kept

theorem onReceiveD (f : Arriving) (ending : FrameEnd) (hs : P k s) : P k (receiveD f ending s) := by
  unfold receiveD
  split
  · exact inv.onOuter hs (countCheckError_outer .d s)
  · exact inv.onOuter hs (countFormatError_outer .d s)
  · split
    · exact inv.onSortCommand _ _ hs
    · exact inv.onReturn _ hs

theorem onTakeLineD (line : List Pattern) (hs : P k s) : P k (takeLineD line s) := by
  refine inv.onTakeLine .d (fun _ => rfl) (fun e u hne hu => ?_) _ hs
  cases e with
  | comesUp => exact absurd rfl hne
  | goesDown => exact inv.onDownD hu
  | frame f ending => exact inv.onReceiveD f ending hu
  | overlong => exact inv.onOuter hu (countFormatError_outer .d u)

theorem onCauseD (c : DownCause) (hs : P k s) : P k (causeD c s) := by
  cases c with
  | lossOfSignal => exact inv.onDownD hs
  | violations line => exact inv.onTakeLineD line hs

theorem onTransmitEndD (down : Option DownCause) (hs : P k s) : P k (transmitEndD down s) := by
  have ended := inv.onTransmitEnd .d hs
  cases down with
  | none => exact ended
  | some c => exact inv.onCauseD c ended

theorem onPortUDown (hs : P k s) : P k (portUDownOp s) := by
  by_cases hu : s.upU = true
  · rw [portUDownOp_up hu]
    split
    · exact inv.onCutOffU hs
    · exact inv.onOuter (inv.onCutOffU hs) (linkLoss_outer _)
  · rw [portUDownOp, if_neg hu]
    exact hs

/-- Port U's receiver keeps the condition where a SEG that finds a place does. -/
theorem onTakeLineU {f : Segment → State → State} (hf : ∀ g {u : State}, u.forwardRoom = true → P k u → P k (f g u))
    (l : List Symbol) (hs : P k s) : P k (takeLine .u (lineEventU f) l s) := by
  refine inv.onTakeLine .u (fun _ => rfl) (fun e u hne hu => ?_) _ hs
  cases e with
  | comesUp => exact absurd rfl hne
  | goesDown => exact inv.onPortUDown hu
  | frame a ending =>
    unfold lineEventU receiveU
    dsimp only
    split
    · exact inv.onOuter hu (countCheckError_outer .u u)
    · exact inv.onOuter hu (countFormatError_outer .u u)
    · split
      · rename_i hroom
        split
        · exact hf _ hroom hu
        · exact inv.onForward _ hroom hu
      · exact inv.onOuter hu (forwardOverrun_outer u)
  | overlong => exact inv.onOuter hu (countFormatError_outer .u u)

/-! #### A segment's work (R41, R45, R65, R189) -/

theorem onBetween (b : Between) (hs : P k s) : P k (betweenAct b s) := by
  refine inv.onSettle ?_
  cases b with
  | executorTakes => exact inv.onExecutor hs
  | tripNFall => exact inv.onOuter hs (tripLineFall_outer s)
  | tripNRise => exact inv.onOuter hs rfl
  | bankCopyComplete => exact inv.onOuter hs (completeCopy_outer s)
  | transmitEndU => exact inv.onTransmitEnd .u hs
  | transmitEndD down => exact inv.onTransmitEndD down hs
  | portDLine line => exact inv.onTakeLineD line hs
  | portDSignalLoss => exact inv.onDownD hs
  | portULine line =>
    dsimp only
    unfold takeBeside
    split
    · exact hs
    · exact inv.onTakeLineU (fun _ _ _ h => h) _ hs

theorem onBetweens (l : List Between) (hs : P k s) : P k (betweenActs l s) :=
  List.foldlRecOn l _ hs fun _ hu b _ => inv.onBetween b hu

/-- Where a segment stands with some of its samples left. -/
theorem onWorkDone {left : List SampleEntry} (hs : P .working s) :
    P (if left.isEmpty then .worked else .working) (workDone left s) := by
  unfold workDone
  refine inv.onSettle ?_
  cases left with
  | nil => exact inv.onComplete hs
  | cons x left => exact hs

theorem onSamples (g : Segment) (out left : List SampleEntry) (between : List (List Between))
    (hs : P (if left.isEmpty then .worked else .working) s) : P .worked (workSamples g out left between s) := by
  induction left generalizing out between s with
  | nil => exact List.foldlRecOn between _ hs fun _ hu l _ => inv.onBetweens l hu
  | cons x left ih =>
    have worked := inv.onOuter (inv.onBetweens (between.headD []) hs) (sampleWork_outer x _)
    exact ih _ _ (inv.onWorkDone (inv.onRewrite g _ worked))

theorem onSegment (between : List (List Between)) (g : Segment) (hroom : s.forwardRoom = true) (hs : P .none s) :
    P .none (takeSegment between g s) := by
  have arrived := inv.onArrive g.cycle g.index (inv.onEnter g hroom hs)
  unfold takeSegment segmentArrival
  dsimp only
  split
  · refine inv.onOver ?_
    have worked := inv.onSamples g [] g.entries between (inv.onWorkDone arrived)
    unfold closeOnLast
    split
    · exact inv.onClose .complete worked
    · exact worked
  · split
    · rename_i ha _
      exact inv.onDrop g hs (arrive_discarded_outer (Bool.eq_false_iff.mpr ha))
    · exact inv.onOver (inv.onComplete arrived)

/-! #### Whole rows -/

theorem onTakeFrom (p : Port) (line : List Pattern) (between : List (List Between)) (hs : P .none s) :
    P .none (takeFrom p line between s) := by
  cases p with
  | u => exact inv.onTakeLineU (fun g _ hroom h => inv.onSegment between g hroom h) _ hs
  | d => exact inv.onTakeLineD line hs

theorem onCauseU (c : DownCause) (hs : P .none s) : P .none (causeU c s) := by
  cases c with
  | lossOfSignal => exact inv.onPortUDown hs
  | violations line => exact inv.onTakeFrom .u line [] hs

theorem onTransmitEndU (down : Option DownCause) (hs : P .none s) : P .none (transmitEndU down s) := by
  have ended := inv.onTransmitEnd .u hs
  cases down with
  | none => exact ended
  | some c => exact inv.onCauseU c ended

/-- Every row has a next state, and it meets the condition. -/
theorem onExec (i : Instr) (hs : P .none s) : ∃ u, exec i s = .next u ∧ P .none u := by
  have row : ∀ u : State, P .none u → ∃ v, act u = .next v ∧ P .none v := fun u hu => ⟨_, rfl, inv.onSettle hu⟩
  by_cases hi : i ∈ commandRows
  · obtain ⟨is, run, hrow, hrun⟩ := commandRows_takeHead hi
    rw [hrow]
    exact row _ (inv.onTakeHead is hrun hs)
  cases i
  case powerOnReset straps tripHigh => exact row _ (inv.onOuter (inv.onPowerOn hs) rfl)
  case frameReceived p line last between => exact row _ (inv.onTakeFrom p _ between hs)
  case cycleTimerExpiry => exact row _ (inv.onTimer hs)
  case bankCopyComplete => exact row _ (inv.onOuter hs (completeCopy_outer s))
  case tripNFall => exact row _ (inv.onOuter hs (tripLineFall_outer s))
  case tripNRise => exact row _ (inv.onOuter hs rfl)
  case portUp p line => exact row _ (inv.onTakeFrom p line [] hs)
  case portDDown cause => exact row _ (inv.onCauseD cause hs)
  case portUDown cause => exact row _ (inv.onCauseU cause hs)
  case frameTransmitEnd e =>
    obtain ⟨port, down⟩ := e
    cases port
    · exact row _ (inv.onTransmitEndU down hs)
    · exact row _ (inv.onTransmitEndD down hs)
  case frameOverlong t => exact row _ (inv.onTakeFrom t.port t.line [] hs)
  all_goals exact absurd (by decide) hi

/-- A step keeps a condition that does not read the steps that wait: it is a row on the queue's rest, or the part idles. -/
theorem onStep {t : State} (hrest : ∀ (rest : List Instr) {u : State}, P .none u → P .none { u with pending := rest })
    (hs : P .none s) (hstep : step s = .next t) : P .none t := by
  unfold step at hstep
  split at hstep
  · cases hstep; exact hs
  · rename_i i rest _
    obtain ⟨u, hu, kept⟩ := inv.onExec i (hrest rest hs)
    rw [hu] at hstep
    cases hstep
    exact kept

end OuterInvariant

end Sys2Proof.Machine
end

section
/-! ### The steps that wait (10.3, R174; log 17) -/

namespace Sys2Proof.Machine

theorem pending_of_outer {s t : State} (h : t.outer = s.outer) : t.pending = s.pending := by
  have hp : t.outer.pending = s.outer.pending := by rw [h]
  exact hp

theorem setRx_pending (s : State) (p : Port) (r : Receiver) : (s.setRx p r).pending = s.pending := by cases p <;> rfl

theorem portUpOp_pending (p : Port) (s : State) : (portUpOp p s).pending = s.pending := by cases p <;> rfl

theorem portDDownOp_pending (s : State) : (portDDownOp s).pending = s.pending := by
  unfold portDDownOp; split <;> rfl

theorem transmitEnd_pending (p : Port) (s : State) : (transmitEnd p s).pending = s.pending := by
  unfold transmitEnd
  repeat' split
  all_goals rfl

theorem enterReturn_pending (l : List Byte) (s : State) : (enterReturn l s).pending = s.pending := by
  unfold enterReturn; split <;> rfl

theorem offerCommand_pending (c : Command) (s : State) : (offerCommand c s).pending = s.pending := by
  unfold offerCommand; split <;> rfl

theorem placeReply_pending (c : Command) (status : Status) (result : Result) (s : State) :
    (placeReply c status result s).pending = s.pending := by
  unfold placeReply; split <;> rfl

/-- No operation of the part touches the steps that wait (log 17). -/
theorem pending_invariant (waiting : List Instr) : OuterInvariant fun _ s => s.pending = waiting where
  onOuter h ho := (pending_of_outer ho).trans h
  onPowerOn h := h
  onSettle h := (settle_pending _).trans h
  onTransmitEnd p _ s h := (transmitEnd_pending p s).trans h
  onFill close n _ s h := (fillStage_pending close n s).trans h
  onReturn l _ s h := (enterReturn_pending l s).trans h
  onOffer c _ s h := (offerCommand_pending c s).trans h
  onForward _ _ _ _ h := h
  onSymbols p _ _ s h := (setRx_pending s p _).trans h
  onUp p _ _ s _ _ h := (portUpOp_pending p _).trans ((setRx_pending s p _).trans h)
  onDownD h := (portDDownOp_pending _).trans h
  onCutOffU h := h
  onTaken _ h := h
  onReply c status result _ s _ h := (placeReply_pending c status result s).trans h
  onResetDevice h := h
  onEnter _ _ _ h := h
  onDrop _ _ _ h ho := (pending_of_outer ho).trans h
  onRewrite _ _ _ h := h
  onComplete h := h
  onOver h := h

/-- Settles O2: no row stops the part, and the steps that wait are no part of what any of its operations changes. -/
theorem everyCommandAnswersNext : Obligations.EveryCommandAnswersNext := by
  unfold Obligations.EveryCommandAnswersNext
  exact fun i s => (pending_invariant s.pending).onExec i rfl

end Sys2Proof.Machine
end

section
/-! ### What the receivers keep, through every step (R187, R188) -/

namespace Sys2Proof.Machine

theorem Receiver.quiet_wellFormed (up : Bool) : Receiver.quiet.WellFormed up :=
  ⟨Nat.zero_le _, Nat.zero_le _, Nat.zero_le _, nofun, fun _ => rfl, fun _ => ⟨rfl, rfl⟩⟩

/-! #### One symbol, and a run of them -/

/-- A frame within 513 bytes stays so: its 514th byte is not kept (R188). -/
theorem delimit_bytes {o : Option Arriving} (h : ∀ f, o = some f → f.bytes.length ≤ 513) (x : Symbol) {f : Arriving}
    (hf : (delimit o x).1 = some f) : f.bytes.length ≤ 513 := by
  cases o with
  | none =>
    cases x <;> simp only [delimit] at hf <;> cases hf
    exact Nat.zero_le _
  | some a =>
    have ha := h a rfl
    cases x with
    | start => cases hf; exact Nat.zero_le _
    | finish => cases hf
    | idle => cases hf; exact ha
    | violation => cases hf; exact ha
    | data b =>
      simp only [delimit, Arriving.more] at hf
      split at hf
      · rename_i hl
        cases hf
        rw [List.length_append]
        exact hl
      · cases hf

theorem Receiver.WellFormed.takeUp {r : Receiver} (h : r.WellFormed true) (x : Symbol) : (r.takeUp x).1.WellFormed true := by
  unfold Receiver.takeUp
  dsimp only
  split
  · exact quiet_wellFormed true
  · rename_i hc
    refine ⟨h.run, List.length_take_le .., ?_, fun f hf => delimit_bytes h.frame x hf, h.whileUp, nofun⟩
    have hle := (List.take_sublist 63 (((x == .violation) :: r.recent).take 64)).count_le true
    dsimp only
    omega

theorem Receiver.takeDown_wellFormed (r : Receiver) (x : Symbol) : (r.takeDown x).1.WellFormed false := by
  unfold Receiver.takeDown
  repeat' split
  · exact quiet_wellFormed false
  · rename_i hrun
    exact ⟨by dsimp only; omega, Nat.zero_le _, Nat.zero_le _, nofun, nofun, fun _ => ⟨rfl, rfl⟩⟩
  · exact quiet_wellFormed false

theorem Receiver.WellFormed.run_symbols {up : Bool} {r : Receiver} (h : r.WellFormed up) (l : List Symbol) :
    (r.run up l).1.WellFormed up := by
  induction l generalizing r with
  | nil => exact h
  | cons x l ih =>
    have hx : (r.take up x).1.WellFormed up := by
      cases up
      · exact r.takeDown_wellFormed x
      · exact h.takeUp x
    rw [Receiver.run]
    split <;> rename_i ht <;> rw [ht] at hx
    · exact ih hx
    · exact hx

/-- A receiver brings its port UP with nothing kept (R187). -/
theorem Receiver.run_comesUp {up : Bool} {r : Receiver} {l rest : List Symbol} (h : (r.run up l).2 = some (.comesUp, rest)) :
    (r.run up l).1 = .quiet := by
  induction l generalizing r with
  | nil => cases h
  | cons x l ih =>
    rw [Receiver.run] at h ⊢
    split at h <;> rename_i ht
    · exact ih h
    · cases h
      have hq := (Receiver.take_link up r x).1
      rw [ht] at hq
      exact (hq rfl).1

/-! #### Both receivers -/

theorem ReceiversSound.of_ports {s : State} (hu : s.rxU.WellFormed s.upU) (hd : s.rxD.WellFormed s.upD) : ReceiversSound s
  | .u => hu
  | .d => hd

theorem ReceiversSound.congr {s t : State} (h : ReceiversSound s) (hu : t.rxU = s.rxU) (hd : t.rxD = s.rxD) (hlu : t.upU = s.upU)
    (hld : t.upD = s.upD) : ReceiversSound t :=
  .of_ports (by rw [hu, hlu]; exact h .u) (by rw [hd, hld]; exact h .d)

theorem ReceiversSound.of_outer {s t : State} (h : ReceiversSound s) (ho : t.outer = s.outer) : ReceiversSound t := by
  have hr : t.outer.rxU = s.outer.rxU ∧ t.outer.rxD = s.outer.rxD ∧ t.outer.upU = s.outer.upU ∧ t.outer.upD = s.outer.upD := by
    rw [ho]; exact ⟨rfl, rfl, rfl, rfl⟩
  exact h.congr hr.1 hr.2.1 hr.2.2.1 hr.2.2.2

/-- A port whose receiver keeps something sound for its link state, beside the other port as it was. -/
theorem ReceiversSound.setRx {s : State} (h : ReceiversSound s) {p : Port} {r : Receiver} (hr : r.WellFormed (s.up p)) :
    ReceiversSound (s.setRx p r) := by
  cases p
  · exact .of_ports hr (h .d)
  · exact .of_ports (h .u) hr

theorem ReceiversSound.portUp {s : State} (h : ReceiversSound s) (p : Port) : ReceiversSound (portUpOp p (s.setRx p .quiet)) := by
  cases p
  · exact .of_ports (Receiver.quiet_wellFormed true) (h .d)
  · exact .of_ports (h .u) (Receiver.quiet_wellFormed true)

theorem ReceiversSound.portDDown {s : State} (h : ReceiversSound s) : ReceiversSound (portDDownOp s) := by
  unfold portDDownOp
  split
  · exact .of_ports (h .u) (Receiver.quiet_wellFormed false)
  · exact h

theorem receiversSound_invariant : OuterInvariant fun _ => ReceiversSound where
  onOuter := ReceiversSound.of_outer
  onPowerOn _ := .of_ports (Receiver.quiet_wellFormed false) (Receiver.quiet_wellFormed false)
  onSettle h := h.congr (settle_rxU _) (settle_rxD _) (settle_upU _) (settle_upD _)
  onTransmitEnd p _ s h := by
    unfold transmitEnd
    repeat' split
    all_goals exact h.congr rfl rfl rfl rfl
  onFill close n _ s h := by
    rw [fillStage_frame]; exact h.congr rfl rfl rfl rfl
  onReturn l _ s h := by
    unfold enterReturn; split <;> exact h.congr rfl rfl rfl rfl
  onOffer c _ s h := by
    unfold offerCommand; split <;> exact h.congr rfl rfl rfl rfl
  onForward _ _ _ _ h := h.congr rfl rfl rfl rfl
  onSymbols p l _ s h := h.setRx ((h p).run_symbols l)
  onUp p l _ s _ hup h := by
    rw [Receiver.run_comesUp hup]; exact h.portUp p
  onDownD h := h.portDDown
  onCutOffU h := .of_ports (Receiver.quiet_wellFormed false) (h .d)
  onTaken _ h := h.congr rfl rfl rfl rfl
  onReply c _ _ _ s _ h := by
    unfold placeReply; split <;> exact h.congr rfl rfl rfl rfl
  onResetDevice h := h.congr rfl rfl rfl rfl
  onEnter _ _ _ h := h.congr rfl rfl rfl rfl
  onDrop g s t h ho := by
    have entered : ReceiversSound (enterSegment g s) := h.congr rfl rfl rfl rfl
    exact (entered.of_outer ho).congr rfl rfl rfl rfl
  onRewrite _ _ _ h := h.congr rfl rfl rfl rfl
  onComplete h := h.congr rfl rfl rfl rfl
  onOver h := h.congr rfl rfl rfl rfl

end Sys2Proof.Machine
end

section
/-! ### The queues within their places, through every step (R41, R168, R189 to R192) -/

namespace Sys2Proof.Machine

/-! #### The condition at each stage of the taking of a SEG -/

/-- A frame of the Forward Queue at a stage of the taking of a SEG: only the SEG under way can be incomplete, and only while its samples
are worked; it is no FILL, and the reserved place is a FILL's (R41, R189). -/
structure Queued.Sound (k : Taking) (q : Queued) : Prop where
  incomplete : q.complete = false → k = .working ∧ q.underway = true
  underway : q.underway = true → k ≠ .none ∧ q.frame.isFill = false
  reserved : q.reserved = q.frame.isFill

/-- The queues within their places, every forward frame and the frame on port D's line as the stage allows (R41, R168, R189 to R191). -/
structure QueuesSound (k : Taking) (s : State) : Prop where
  bounded : QueuesBounded s
  frames : ∀ q ∈ s.forward, q.Sound k
  line : ∀ f ∈ s.txD, f.underway = true → k ≠ .none

/-- A part that is taking no SEG is settled as between two steps. -/
theorem queuesSound_none_iff (s : State) : QueuesSound .none s ↔ QueuesBounded s ∧ ForwardSettled s := by
  constructor
  · rintro ⟨hb, hf, hl⟩
    refine ⟨hb, fun q hq => ?_, fun f hx => Bool.eq_false_iff.mpr fun hu => hl f hx hu rfl⟩
    obtain ⟨hi, hu, hr⟩ := hf q hq
    exact ⟨Bool.of_not_eq_false fun hc => (nomatch (hi hc).1), Bool.eq_false_iff.mpr fun h => (hu h).1 rfl, hr⟩
  · rintro ⟨hb, hf, hl⟩
    refine ⟨hb, fun q hq => ?_, fun f hx hu => ?_⟩
    · obtain ⟨hc, hu, hr⟩ := hf q hq
      exact ⟨fun h => absurd hc (by simp [h]), fun h => absurd hu (by simp [h]), hr⟩
    · rw [hl f hx] at hu; cases hu

section
variable {k : Taking} {s t : State}

/-- Frames, commands and replies that leave their queues leave the rest sound. -/
theorem QueuesSound.shrink (h : QueuesSound k s) (hc : List.Sublist t.cmdFifo s.cmdFifo)
    (hf : List.Sublist t.forward s.forward) (hr : List.Sublist t.ret s.ret) (hp : List.Sublist t.replies s.replies)
    (hl : ∀ f ∈ t.txD, f.underway = true → k ≠ .none) : QueuesSound k t :=
  ⟨⟨hc.length_le.trans h.bounded.fifo, hf.countP_le.trans h.bounded.forward, hf.countP_le.trans h.bounded.reserved,
    hr.length_le.trans h.bounded.ret, hp.length_le.trans h.bounded.replies⟩, fun q hq => h.frames q (hf.subset hq), hl⟩

theorem QueuesSound.congr (h : QueuesSound k s) (hc : t.cmdFifo = s.cmdFifo) (hf : t.forward = s.forward) (hr : t.ret = s.ret)
    (hp : t.replies = s.replies) (hl : t.txD = s.txD) : QueuesSound k t :=
  h.shrink (by rw [hc]) (by rw [hf]) (by rw [hr]) (by rw [hp]) (by rw [hl]; exact h.line)

theorem QueuesSound.of_outer (h : QueuesSound k s) (ho : t.outer = s.outer) : QueuesSound k t := by
  obtain ⟨hc, hf, hr, hp, hl⟩ : t.outer.cmdFifo = s.outer.cmdFifo ∧ t.outer.forward = s.outer.forward ∧ t.outer.ret = s.outer.ret ∧
      t.outer.replies = s.outer.replies ∧ t.outer.txD = s.outer.txD := by
    rw [ho]; exact ⟨rfl, rfl, rfl, rfl, rfl⟩
  exact h.congr hc hf hr hp hl

/-- Marks change on frames that keep their places, from one stage to another. -/
theorem QueuesSound.remark {k' : Taking} (h : QueuesSound k s) {mark : Queued → Queued} (hf : t.forward = s.forward.map mark)
    (hres : ∀ q, (mark q).reserved = q.reserved) (hmark : ∀ q, q.Sound k → (mark q).Sound k')
    (hc : List.Sublist t.cmdFifo s.cmdFifo) (hr : t.ret = s.ret) (hp : List.Sublist t.replies s.replies)
    (hl : ∀ f ∈ t.txD, f.underway = true → k' ≠ .none) : QueuesSound k' t := by
  obtain ⟨⟨bc, bf, bres, br, bp⟩, frames, -⟩ := h
  refine ⟨⟨hc.length_le.trans bc, ?_, ?_, hr ▸ br, hp.length_le.trans bp⟩, fun q hq => ?_, hl⟩
  · rw [hf, placesTaken, List.countP_map]
    simpa only [Function.comp_def, hres, placesTaken] using bf
  · rw [hf, List.countP_map]
    simpa only [Function.comp_def, hres] using bres
  · rw [hf] at hq
    obtain ⟨q', hq', rfl⟩ := List.mem_map.mp hq
    exact hmark q' (frames q' hq')

/-! #### The transmitters (R190, R192, R194) -/

/-- The Arbiter's choice takes a frame and adds none; a SEG under way comes from the Forward Queue (R192). -/
theorem arbiterChoice_takes {s' : State} {f : OnLine} (h : arbiterChoice s = some (f, s')) :
    List.Sublist s'.forward s.forward ∧ List.Sublist s'.replies s.replies ∧
      (f.underway = true → ∃ q ∈ s.forward, q.underway = true) := by
  unfold arbiterChoice takeOutbound takeForward at h
  repeat' split at h
  all_goals cases h
  · exact ⟨.refl _, .refl _, nofun⟩
  · rename_i hr
    exact ⟨.refl _, by rw [hr]; exact List.sublist_cons_self .., nofun⟩
  · rename_i q _ hf
    rw [hf]
    exact ⟨List.sublist_cons_self .., .refl _, fun hu => ⟨q, List.mem_cons_self, hu⟩⟩

theorem QueuesSound.chosen {s' : State} {f : OnLine} (h : QueuesSound k s) (hc : arbiterChoice s = some (f, s')) :
    QueuesSound k s' ∧ (f.underway = true → k ≠ .none) := by
  obtain ⟨hf, hp, hu⟩ := arbiterChoice_takes hc
  have hframe := arbiterChoice_frame hc
  refine ⟨h.shrink (by rw [hframe]) hf (by rw [hframe]) hp (by rw [hframe]; exact h.line), fun hx => ?_⟩
  obtain ⟨q, hq, hqu⟩ := hu hx
  exact ((h.frames q hq).underway hqu).1

theorem QueuesSound.arbitrate (h : QueuesSound k s) (n : Nat) : QueuesSound k (arbitrate n s) := by
  induction n generalizing s with
  | zero => exact h
  | succ n ih =>
    rw [Machine.arbitrate]
    repeat' split
    · exact h
    · exact h
    · rename_i f s' hc _
      obtain ⟨hs', hu⟩ := h.chosen hc
      exact hs'.shrink (.refl _) (.refl _) (.refl _) (.refl _) fun x hx => Option.some.inj hx ▸ hu
    · rename_i hc _
      exact ih ((h.chosen hc).1.congr rfl rfl rfl rfl rfl)

theorem QueuesSound.settle (h : QueuesSound k s) : QueuesSound k (settle s) := by
  have chosen := h.arbitrate (choicesLeft s)
  unfold Machine.settle returnSend
  repeat' split
  · rename_i hr
    exact chosen.shrink (.refl _) (.refl _) (by rw [hr]; exact List.sublist_cons_self ..) (.refl _) chosen.line
  · exact chosen
  · exact chosen.shrink (.refl _) (.refl _) (List.nil_sublist _) (.refl _) chosen.line

theorem QueuesSound.transmitEnd (h : QueuesSound k s) (p : Port) : QueuesSound k (transmitEnd p s) := by
  unfold Machine.transmitEnd
  repeat' split
  · exact h.congr rfl rfl rfl rfl rfl
  · exact h
  · exact h.shrink (.refl _) (.refl _) (.refl _) (.refl _) fun f hf => absurd hf (Option.not_mem_none f)

/-! #### The FILL and the ending mark of a close (R34, R99, R189) -/

/-- A FILL is placed among the frames as they stand (R189). -/
theorem placeFill_perm (close : CloseKind) (q : Queued) (l : List Queued) : List.Perm (placeFill close q l) (q :: l) := by
  cases close with
  | byArrival n i =>
    have h := List.perm_middle (a := q) (l₁ := l.takeWhile (·.complete)) (l₂ := l.dropWhile (·.complete))
    rwa [List.takeWhile_append_dropWhile] at h
  | complete => exact List.perm_append_singleton q l
  | byTimer => exact List.perm_append_singleton q l

theorem QueuesSound.nameEnding (h : QueuesSound k s) (close : CloseKind) : QueuesSound k (nameEnding close s) := by
  cases close with
  | complete =>
    refine h.remark (mark := fun q => { q with ending := q.ending || q.underway }) rfl (fun _ => rfl)
      (fun q hq => ⟨hq.incomplete, hq.underway, hq.reserved⟩) (.refl _) rfl (.refl _) fun f hf hu => ?_
    obtain ⟨x, hx, rfl⟩ := Option.map_eq_some_iff.mp hf
    exact h.line x hx hu
  | byArrival n i => exact h.congr rfl rfl rfl rfl rfl
  | byTimer => exact h.congr rfl rfl rfl rfl rfl

theorem QueuesSound.fillStage (h : QueuesSound k s) (close : CloseKind) (n : CycleNo) : QueuesSound k (fillStage close n s) := by
  unfold Machine.fillStage
  dsimp only
  repeat' split
  · exact h.nameEnding close
  · have counted : QueuesSound k
        { s with counters := { s.counters with forwardOverruns := saturate s.counters.forwardOverruns 1 } } :=
      h.congr rfl rfl rfl rfl rfl
    exact counted.nameEnding close
  · rename_i hfree
    obtain ⟨⟨bc, bf, bres, br, bp⟩, frames, line⟩ := h
    have hperm := placeFill_perm close ⟨.fill n (fillEntries s n), true, true, true, false⟩ s.forward
    have hzero : s.forward.countP (·.reserved) = 0 :=
      List.countP_eq_zero.mpr fun q hq => by simpa using any_reserved_eq_false.mp (Bool.eq_false_iff.mpr hfree) q hq
    refine ⟨⟨bc, ?_, ?_, br, bp⟩, fun q hq => ?_, line⟩
    · rw [placesTaken, hperm.countP_eq, List.countP_cons]
      exact bf
    · rw [hperm.countP_eq, List.countP_cons, hzero]
      exact Nat.le_refl _
    · rcases List.mem_cons.mp (hperm.mem_iff.mp hq) with rfl | hq
      · exact ⟨nofun, nofun, rfl⟩
      · exact frames q hq

/-! #### What joins a queue (R168, R169, R189, R190, R191) -/

/-- A frame of port U that finds a place joins the tail of the Forward Queue (R189). -/
theorem QueuesSound.join {k' : Taking} (h : QueuesSound k s) (hroom : s.forwardRoom = true) {q : Queued} (hq : q.Sound k')
    (hres : q.reserved = false) (hk : ∀ x : Queued, x.Sound k → x.Sound k') (hk' : k ≠ .none → k' ≠ .none) :
    QueuesSound k' { s with forward := s.forward ++ [q] } := by
  obtain ⟨⟨bc, -, bres, br, bp⟩, frames, line⟩ := h
  have hlt : placesTaken s.forward < 4 := of_decide_eq_true hroom
  refine ⟨⟨bc, ?_, ?_, br, bp⟩, fun x hx => ?_, fun f hf hu => hk' (line f hf hu)⟩
  · rw [placesTaken, List.countP_append]
    simp only [List.countP_singleton, hres]
    exact hlt
  · rw [List.countP_append]
    simpa [hres] using bres
  · rcases List.mem_append.mp hx with hx | hx
    · exact hk x (frames x hx)
    · rw [List.mem_singleton.mp hx]; exact hq

theorem QueuesSound.enterReturn (h : QueuesSound k s) (l : List Byte) : QueuesSound k (enterReturn l s) := by
  unfold Machine.enterReturn
  split
  · rename_i hroom
    obtain ⟨⟨bc, bf, bres, -, bp⟩, frames, line⟩ := h
    exact ⟨⟨bc, bf, bres, by rw [List.length_append]; exact hroom, bp⟩, frames, line⟩
  · exact h.congr rfl rfl rfl rfl rfl

theorem QueuesSound.offerCommand (h : QueuesSound k s) (c : Command) : QueuesSound k (offerCommand c s) := by
  unfold Machine.offerCommand
  split
  · rename_i hroom
    obtain ⟨⟨-, bf, bres, br, bp⟩, frames, line⟩ := h
    exact ⟨⟨by rw [List.length_append]; exact hroom, bf, bres, br, bp⟩, frames, line⟩
  · exact h.congr rfl rfl rfl rfl rfl

theorem QueuesSound.placeReply (h : QueuesSound k s) {c : Command} (hroom : mayTake c s = true) (status : Status)
    (result : Result) : QueuesSound k (placeReply c status result s) := by
  unfold Machine.placeReply
  split
  · exact h
  · rename_i hb
    have hlt : s.replies.length < 8 := by simpa [mayTake, hb] using hroom
    obtain ⟨⟨bc, bf, bres, br, -⟩, frames, line⟩ := h
    exact ⟨⟨bc, bf, bres, br, by rw [List.length_append]; exact hlt⟩, frames, line⟩

/-! #### The ports (R187, R194, R195) -/

theorem QueuesSound.setRx (h : QueuesSound k s) (p : Port) (r : Receiver) : QueuesSound k (s.setRx p r) := by
  cases p <;> exact h.congr rfl rfl rfl rfl rfl

theorem QueuesSound.portUp (h : QueuesSound k s) (p : Port) : QueuesSound k (portUpOp p s) := by
  cases p <;> exact h.congr rfl rfl rfl rfl rfl

theorem QueuesSound.portDDown (h : QueuesSound k s) : QueuesSound k (portDDownOp s) := by
  unfold portDDownOp
  split
  · exact h.shrink (.refl _) (.refl _) (.refl _) (List.nil_sublist _) fun f hf => absurd hf (Option.not_mem_none f)
  · exact h

/-- After power-on the queues and the line are empty (R168, R189 to R192). -/
theorem QueuesSound.powerOn (h : QueuesSound .none s) : QueuesSound .none { State.reset with pending := s.pending } :=
  h.shrink (List.nil_sublist _) (List.nil_sublist _) (List.nil_sublist _) (List.nil_sublist _)
    fun f hf => absurd hf (Option.not_mem_none f)

theorem QueuesSound.resetDevice (h : QueuesSound k s) : QueuesSound k (resetDeviceOp s) :=
  h.remark (mark := fun q => { q with complete := true, ending := false }) rfl (fun _ => rfl)
    (fun _ hq => ⟨nofun, hq.underway, hq.reserved⟩) (List.nil_sublist _) rfl (List.nil_sublist _) h.line

/-! #### From stage to stage (R23, R41, R65, R189) -/

/-- With no SEG taken a frame meets the conditions of every stage. -/
theorem Queued.Sound.of_none {q : Queued} (h : q.Sound .none) : q.Sound k :=
  ⟨fun hc => (nomatch (h.incomplete hc).1), fun hu => absurd rfl (h.underway hu).1, h.reserved⟩

theorem QueuesSound.enterSegment (h : QueuesSound .none s) (hroom : s.forwardRoom = true) (g : Segment) :
    QueuesSound .working (enterSegment g s) :=
  h.join hroom ⟨fun _ => ⟨rfl, rfl⟩, fun _ => ⟨nofun, rfl⟩, rfl⟩ rfl (fun _ hx => hx.of_none) nofun

theorem QueuesSound.rewriteEntries (h : QueuesSound .working s) (g : Segment) (l : List SampleEntry) :
    QueuesSound .working (rewriteEntries g l s) := by
  refine h.remark (mark := fun q => if q.complete then q else { q with frame := .seg { g with entries := l } }) rfl
    (fun q => by split <;> rfl) (fun q hq => ?_) (.refl _) rfl (.refl _) h.line
  split
  · exact hq
  · rename_i hc
    have hu := (hq.incomplete (Bool.eq_false_iff.mpr hc)).2
    exact ⟨hq.incomplete, fun _ => ⟨nofun, rfl⟩, hq.reserved.trans (hq.underway hu).2⟩

theorem QueuesSound.completeFrames (h : QueuesSound .working s) : QueuesSound .worked (completeFrames s) :=
  h.remark (mark := fun q => { q with complete := true }) rfl (fun _ => rfl)
    (fun _ hq => ⟨nofun, fun hu => ⟨nofun, (hq.underway hu).2⟩, hq.reserved⟩) (.refl _) rfl (.refl _)
    fun _ _ _ => nofun

theorem QueuesSound.segmentOver (h : QueuesSound .worked s) : QueuesSound .none (segmentOver s) := by
  refine h.remark (mark := fun q => { q with underway := false }) rfl (fun _ => rfl)
    (fun q hq => ⟨fun hc => (nomatch (hq.incomplete hc).1), nofun, hq.reserved⟩) (.refl _) rfl (.refl _)
    fun f hf hu => ?_
  obtain ⟨x, -, rfl⟩ := Option.map_eq_some_iff.mp hf
  cases hu

/-- A SEG discarded in ACTIVE leaves the Forward Queue as it found it (R23, R189). -/
theorem QueuesSound.dropIncomplete (h : QueuesSound .none s) {g : Segment} (ht : t.outer = (Machine.enterSegment g s).outer) :
    QueuesSound .none (dropIncomplete t) := by
  have hf : ((Machine.dropIncomplete t).outer) = (Machine.dropIncomplete (Machine.enterSegment g s)).outer := by
    change { t.outer with forward := t.outer.forward.filter (·.complete) } = _
    rw [ht]
    rfl
  refine QueuesSound.of_outer (s := Machine.dropIncomplete (Machine.enterSegment g s)) ?_ hf
  have hsettled := ((queuesSound_none_iff s).mp h).2
  refine h.congr rfl ?_ rfl rfl rfl
  exact congrArg State.forward (dropIncomplete_placed hsettled g s.rxU)

end

/-! #### Every step -/

theorem queuesSound_invariant : OuterInvariant QueuesSound where
  onOuter := QueuesSound.of_outer
  onPowerOn h := h.powerOn
  onSettle h := h.settle
  onTransmitEnd p _ _ h := h.transmitEnd p
  onFill close n _ _ h := h.fillStage close n
  onReturn l _ _ h := h.enterReturn l
  onOffer c _ _ h := h.offerCommand c
  onForward l _ _ hroom h := h.join hroom ⟨nofun, nofun, rfl⟩ rfl (fun _ hx => hx) id
  onSymbols p _ _ _ h := h.setRx p _
  onUp p _ _ _ _ _ h := (h.setRx p _).portUp p
  onDownD h := h.portDDown
  onCutOffU h := h.congr rfl rfl rfl rfl rfl
  onTaken hc h := h.shrink (by rw [hc]; exact List.sublist_cons_self ..) (.refl _) (.refl _) (.refl _) h.line
  onReply _ status result _ _ hroom h := h.placeReply hroom status result
  onResetDevice h := h.resetDevice
  onEnter g _ hroom h := h.enterSegment hroom g
  onDrop _ _ _ h ht := h.dropIncomplete ht
  onRewrite g l _ h := h.rewriteEntries g l
  onComplete h := h.completeFrames
  onOver h := h.segmentOver

/-- Settles O53: the bounds with what is under way, and what the receivers keep, are two invariants of the ports' own operations. -/
theorem queuesStayWithinTheirPlaces : Obligations.QueuesStayWithinTheirPlaces := by
  unfold Obligations.QueuesStayWithinTheirPlaces
  refine ⟨fun s t bounded settled hstep => ?_, fun s t sound hstep => receiversSound_invariant.onStep (fun _ _ h => h.congr rfl rfl rfl rfl) sound hstep⟩
  have hs := (queuesSound_none_iff s).mpr ⟨bounded, settled⟩
  exact (queuesSound_none_iff t).mp (queuesSound_invariant.onStep (fun _ _ h => h.congr rfl rfl rfl rfl rfl) hs hstep)

end Sys2Proof.Machine
end

section
/-! ### A command answered with another status than OK (R174) -/

namespace Sys2Proof.Machine

/-- The answer is OK, or the state is as it was (R174). -/
structure Answer.KeepsUnlessOk (s : State) (a : Answer) : Prop where
  same : a.status ≠ .ok → a.state = s

theorem refuse_keeps (s : State) (status : Status) (result : Result) : (refuse s status result).KeepsUnlessOk s := ⟨fun _ => rfl⟩

theorem accepted_keeps (s t : State) (result : Result) : Answer.KeepsUnlessOk s ⟨t, .ok, result⟩ := ⟨fun h => absurd rfl h⟩

theorem runWriteChannel_keeps (args : List Byte) (s : State) : (runWriteChannel args s).KeepsUnlessOk s := by
  unfold runWriteChannel
  repeat' split
  · exact refuse_keeps ..
  · exact ⟨writeItems_keeps _ _ _ s⟩
  · exact refuse_keeps ..

theorem runWriteGroup_keeps (args : List Byte) (s : State) : (runWriteGroup args s).KeepsUnlessOk s := by
  unfold runWriteGroup
  repeat' split
  · exact refuse_keeps ..
  · exact ⟨writeItems_keeps _ _ _ s⟩
  · exact refuse_keeps ..

theorem runWriteCycle_keeps (args : List Byte) (s : State) : (runWriteCycle args s).KeepsUnlessOk s := by
  unfold runWriteCycle
  split
  · exact ⟨writeItems_keeps _ _ _ s⟩
  · exact refuse_keeps ..

/-- A group that is not ready is left as it is (R114). -/
theorem tryRearm_keeps (how : RearmHow) (g : Grp) (s : State) :
    Answer.KeepsUnlessOk s ⟨(tryRearm how g s).1, (tryRearm how g s).2.status, .rearmItem (tryRearm how g s).2⟩ := by
  unfold tryRearm
  repeat' split
  · exact accepted_keeps ..
  · exact ⟨fun _ => rfl⟩
  · exact accepted_keeps ..

theorem runRearm_keeps (args : List Byte) (s : State) : (runRearm args s).KeepsUnlessOk s := by
  unfold runRearm
  split
  · exact refuse_keeps ..
  · exact tryRearm_keeps ..
  · exact accepted_keeps ..

theorem runReset_keeps (args : List Byte) (s : State) : (runReset args s).KeepsUnlessOk s := by
  unfold runReset
  split <;> rename_i hs
  · rw [runResetRuntime, if_pos hs]; exact accepted_keeps ..
  · rw [runResetLog, if_pos hs]; exact accepted_keeps ..
  · rw [runResetDevice, if_pos hs]; exact accepted_keeps ..
  · exact refuse_keeps ..

/-- Every command of the catalogue refuses without a change, or answers OK (R174). -/
theorem commandTable_keeps {code : Byte} {run : List Byte → State → Answer} (h : (code, run) ∈ commandTable) (args : List Byte)
    (s : State) : (run args s).KeepsUnlessOk s := by
  simp only [commandTable, List.mem_cons, Prod.mk.injEq, List.not_mem_nil, or_false] at h
  rcases h with ⟨-, rfl⟩ | ⟨-, rfl⟩ | ⟨-, rfl⟩ | ⟨-, rfl⟩ | ⟨-, rfl⟩ | ⟨-, rfl⟩ | ⟨-, rfl⟩ | ⟨-, rfl⟩ | ⟨-, rfl⟩ | ⟨-, rfl⟩ |
    ⟨-, rfl⟩ | ⟨-, rfl⟩ | ⟨-, rfl⟩ | ⟨-, rfl⟩ | ⟨-, rfl⟩ | ⟨-, rfl⟩ | ⟨-, rfl⟩ | ⟨-, rfl⟩ | ⟨-, rfl⟩ | ⟨-, rfl⟩ | ⟨-, rfl⟩
  · unfold runIdentify; split <;> simp only [refuse_keeps, accepted_keeps]
  · unfold runStatus; split <;> simp only [refuse_keeps, accepted_keeps]
  · unfold runReadChannel; repeat' split
    all_goals simp only [refuse_keeps, accepted_keeps]
  · exact runWriteChannel_keeps args s
  · unfold runReadGroup; repeat' split
    all_goals simp only [refuse_keeps, accepted_keeps]
  · exact runWriteGroup_keeps args s
  · unfold runReadCycle; repeat' split
    all_goals simp only [refuse_keeps, accepted_keeps]
  · exact runWriteCycle_keeps args s
  · unfold runCommit; repeat' split
    all_goals simp only [refuse_keeps, accepted_keeps]
  · unfold runCancel; split <;> simp only [refuse_keeps, accepted_keeps]
  · unfold runBypass; repeat' split
    all_goals simp only [refuse_keeps, accepted_keeps]
  · unfold runChannelState; repeat' split
    all_goals simp only [refuse_keeps, accepted_keeps]
  · unfold runGroupState; repeat' split
    all_goals simp only [refuse_keeps, accepted_keeps]
  · unfold runTrip; repeat' split
    all_goals simp only [refuse_keeps, accepted_keeps]
  · exact runRearm_keeps args s
  · unfold runLogRead; repeat' split
    all_goals simp only [refuse_keeps, accepted_keeps]
  · unfold runLogAck; repeat' split
    all_goals simp only [refuse_keeps, accepted_keeps]
  · unfold runLogClear; split <;> simp only [refuse_keeps, accepted_keeps]
  · unfold runTestCommand; repeat' split
    all_goals simp only [refuse_keeps, accepted_keeps]
  · unfold runTestResult; split <;> simp only [refuse_keeps, accepted_keeps]
  · exact runReset_keeps args s

/-- Settles O7: a code of the catalogue names one of its commands, and each of them keeps the state where it refuses. -/
theorem refusedCommandChangesNothing : Obligations.RefusedCommandChangesNothing := by
  unfold Obligations.RefusedCommandChangesNothing
  exact fun _ _ args s h => (commandTable_keeps (catalogue_mem h) args s).same

end Sys2Proof.Machine
end

section
/-! ### Frames that fail their tests, and what a port takes without one (R187, R188, R196) -/

namespace Sys2Proof.Machine

/-! #### The tests of a frame (R188) -/

theorem checkPasses_eq_false (l : List Byte) :
    checkPasses l = false ↔ l.length < 3 ∨ l.drop (l.length - 2) ≠ byte2 (checkWord (l.take (l.length - 2))).toNat := by
  rw [checkPasses, Bool.and_eq_false_iff, decide_eq_false_iff_not, Nat.not_le, beq_eq_false_iff_ne, ne_comm]

/-- The format test gives no verdict on the check (R188). -/
theorem formatTest_ne_badCheck (l : List Byte) : formatTest l ≠ .badCheck := by
  unfold formatTest
  dsimp only
  repeat' split
  all_goals exact nofun

/-- The check comes first, and its failure alone counts (R188). -/
theorem receive_badCheck_iff (f : Arriving) (e : FrameEnd) :
    receive f e = .badCheck ↔ e = .secondStart ∨ f.violated = true ∨ checkPasses f.bytes = false := by
  unfold receive
  split <;> rename_i h
  · exact ⟨fun _ => h, fun _ => rfl⟩
  · exact ⟨fun hb => absurd hb (formatTest_ne_badCheck _), fun h' => absurd h' h⟩

/-- The form of a payload of four bytes or more, which every payload of a length in range is (R188, R196). -/
theorem payloadForm_iff {kind : Byte} {p : List Byte} (hp : 4 ≤ p.length) : payloadForm kind p = true ↔ FormOf kind p := by
  obtain ⟨a, b, c, d, rest, rfl⟩ : ∃ a b c d rest, p = a :: b :: c :: d :: rest := by
    match p, hp with
    | a :: b :: c :: d :: rest, _ => exact ⟨a, b, c, d, rest, rfl⟩
  have hform : FormOf kind (a :: b :: c :: d :: rest) ↔
      (kind = 0x01 → d.toNat ≤ 48 ∧ (a :: b :: c :: d :: rest).length = 4 + 5 * d.toNat) ∧
      (kind = 0x02 → 1 ≤ c.toNat ∧ c.toNat ≤ 96 ∧ (a :: b :: c :: d :: rest).length = 3 + 5 * c.toNat) ∧
      (kind = 0x03 → d.toNat ≤ 60 ∧ (a :: b :: c :: d :: rest).length = 4 + d.toNat) ∧
      (kind = 0x05 → (a :: b :: c :: d :: rest).length = 21) :=
    ⟨fun ⟨h₁, h₂, h₃, h₄⟩ => ⟨h₁, h₂, h₃, h₄⟩, fun ⟨h₁, h₂, h₃, h₄⟩ => ⟨h₁, h₂, h₃, h₄⟩⟩
  rw [hform, payloadForm]
  by_cases h₁ : kind = 0x01
  · subst h₁; simp
  by_cases h₂ : kind = 0x02
  · subst h₂; simp [and_assoc]
  by_cases h₃ : kind = 0x03
  · subst h₃; simp
  by_cases h₅ : kind = 0x05
  · subst h₅; simp
  · rw [if_neg h₁, if_neg h₂, if_neg h₃, if_neg h₅]
    exact ⟨fun _ => ⟨fun h => absurd h h₁, fun h => absurd h h₂, fun h => absurd h h₃, fun h => absurd h h₅⟩, fun _ => rfl⟩

/-- A frame is good exactly where it is, whole and unbroken, the frame of a payload in its form (R188, R196). -/
theorem receive_good_iff (f : Arriving) (e : FrameEnd) (kind : Byte) (p : List Byte) :
    receive f e = .good kind p ↔ e = .endSymbol ∧ f.violated = false ∧ f.bytes = frameBytes kind p ∧ 4 ≤ p.length ∧
      p.length ≤ 508 ∧ FormOf kind p := by
  constructor
  · intro h
    obtain ⟨hb, hform, h4, h508⟩ := receive_good h
    have hcheck : receive f e ≠ .badCheck := by rw [h]; nofun
    rw [Ne, receive_badCheck_iff, not_or, not_or] at hcheck
    obtain ⟨he, hv, -⟩ := hcheck
    refine ⟨?_, Bool.eq_false_iff.mpr hv, hb, h4, h508, (payloadForm_iff h4).mp hform⟩
    cases e
    · rfl
    · exact absurd rfl he
  · rintro ⟨rfl, hv, hb, h4, h508, hform⟩
    obtain ⟨bytes, violated⟩ := f
    subst hv hb
    exact receive_frameBytes h4 h508 ((payloadForm_iff h4).mpr hform)

/-! #### What an event of a port does (R187, R188) -/

section
variable {s : State} {p : Port} {line : List Pattern} {last : Pattern} {r : Receiver}

theorem Brings.frameOverlong (h : Brings s p line .overlong r) :
    exec (.frameOverlong ⟨p, line⟩) s = act (countFormatError p (s.setRx p r)) := by
  refine congrArg act ((h.takeFrom []).trans ?_)
  cases p <;> rfl

variable {f : Arriving} {e : FrameEnd} (h : Delivers s p (line ++ [last]) f e r) (b : List (List Between))
include h

theorem Delivers.badCheck (hc : receive f e = .badCheck) :
    exec (.frameReceived p line last b) s = act (countCheckError p (s.setRx p r)) := by
  cases p
  · rw [h.frameReceivedU, receiveU, hc]; rfl
  · rw [h.frameReceivedD, receiveD, hc]; rfl

theorem Delivers.badFormat (hc : receive f e = .badFormat) :
    exec (.frameReceived p line last b) s = act (countFormatError p (s.setRx p r)) := by
  cases p
  · rw [h.frameReceivedU, receiveU, hc]; rfl
  · rw [h.frameReceivedD, receiveD, hc]; rfl

end

/-- Settles O15: the port's event decides the counter, and the tests of a frame are read by their two failures and their one success. -/
theorem badFramesAreOnlyCounted : Obligations.BadFramesAreOnlyCounted := by
  unfold Obligations.BadFramesAreOnlyCounted
  refine ⟨fun s line r => ⟨fun _ h => h.frameOverlong, fun _ h => h.frameOverlong⟩, fun s line last f e r b =>
    ⟨fun h => ⟨h.badCheck b, h.badFormat b⟩, fun h => ⟨h.badCheck b, h.badFormat b⟩, fun h => ?_, fun h => ?_,
      fun p _ h => ⟨congrArg act (h.takeFrom b), congrArg act (h.takeFrom [])⟩⟩, fun f e => ⟨?_, receive_good_iff f e, ?_⟩⟩
  · exact congrArg act ((h.takeFrom b).trans (h.takeFrom []).symm)
  · exact congrArg act ((h.takeFrom b).trans (h.takeFrom []).symm)
  · rw [receive_badCheck_iff, checkPasses_eq_false]
  · cases receive f e with
    | badCheck => simp
    | badFormat => simp
    | good kind p => simp

end Sys2Proof.Machine
end

section
/-! ### Good frames of port D: commands, broadcasts and the rest (R168 to R170, R188, R190) -/

namespace Sys2Proof.Machine

/-- A CMD frame of up to 60 argument bytes is received good (R188, R196). -/
theorem receive_command {args : List Byte} (h : args.length ≤ 60) (dest tag code : Byte) :
    receive ⟨frameBytes 0x03 (dest :: tag :: code :: BitVec.ofNat 8 args.length :: args), false⟩ .endSymbol =
      .good 0x03 (dest :: tag :: code :: BitVec.ofNat 8 args.length :: args) := by
  have hn : (BitVec.ofNat 8 args.length : Byte).toNat = args.length := by
    rw [BitVec.toNat_ofNat]; omega
  refine receive_frameBytes (by simp) (by simp only [List.length_cons]; omega) ?_
  simp [payloadForm, hn, h]
  omega

/-- The node address is six bits wide, and 63 is the broadcast's (R169). -/
theorem nodeAddr_ne_broadcast {a : BitVec 6} (h : a ≠ 63) : (a.setWidth 8 : Byte) ≠ 63 := by
  intro he
  have ha := a.isLt
  have hn := congrArg BitVec.toNat he
  rw [BitVec.toNat_setWidth, Nat.mod_eq_of_lt (by omega)] at hn
  exact h (BitVec.eq_of_toNat_eq hn)

theorem broadcastAdmitted_iff (code : Byte) :
    broadcastAdmitted code = true ↔ code ∈ ([0x20, 0x21, 0x22, 0x32, 0x33, 0x60] : List Byte) := by
  simp [broadcastAdmitted, or_assoc]

/-! #### Joining a queue (R168 to R170, R190) -/

theorem enterReturn_eq (l : List Byte) (s : State) :
    enterReturn l s =
      { s with
        ret := if s.ret.length < 4 then s.ret ++ [l] else s.ret
        counters :=
          { s.counters with
            returnOverruns :=
              if s.ret.length < 4 then s.counters.returnOverruns else min 65535 (s.counters.returnOverruns + 1) } } := by
  unfold enterReturn
  split <;> rfl

/-- A broadcast joins the FIFO where its code is admitted and a place is free, and is counted elsewhere (R170). -/
theorem offerBroadcast_eq (c : Command) (s : State) :
    offerBroadcast c s =
      let admitted := c.code ∈ ([0x20, 0x21, 0x22, 0x32, 0x33, 0x60] : List Byte) ∧ s.cmdFifo.length < 4
      { s with
        cmdFifo := if admitted then s.cmdFifo ++ [c] else s.cmdFifo
        counters :=
          { s.counters with
            droppedCommands :=
              if admitted then s.counters.droppedCommands else min 65535 (s.counters.droppedCommands + 1) } } := by
  have hb := broadcastAdmitted_iff c.code
  dsimp only
  unfold offerBroadcast offerCommand
  by_cases hcode : c.code ∈ ([0x20, 0x21, 0x22, 0x32, 0x33, 0x60] : List Byte)
  · rw [if_pos (hb.mpr hcode)]
    split <;> rename_i hroom
    · rw [if_pos ⟨hcode, hroom⟩, if_pos ⟨hcode, hroom⟩]
    · rw [if_neg fun h => hroom h.2, if_neg fun h => hroom h.2]; rfl
  · rw [if_neg (hb.not.mpr hcode), if_neg fun h => hcode h.1, if_neg fun h => hcode h.1]; rfl

/-! #### Sorting (R169, R170) -/

section
variable (tag code n : Byte) (args whole : List Byte) (s : State)

theorem sortCommand_broadcast :
    sortCommand (63 :: tag :: code :: n :: args) whole s = offerBroadcast ⟨true, tag, code, args⟩ (enterReturn whole s) := rfl

variable {dest : Byte} (hb : dest ≠ 63)
include hb

theorem sortCommand_node (hn : dest = s.nodeAddr.setWidth 8) :
    sortCommand (dest :: tag :: code :: n :: args) whole s = offerCommand ⟨false, tag, code, args⟩ s := by
  rw [sortCommand, if_neg hb, if_pos hn]

theorem sortCommand_other (hn : dest ≠ s.nodeAddr.setWidth 8) :
    sortCommand (dest :: tag :: code :: n :: args) whole s = enterReturn whole s := by
  rw [sortCommand, if_neg hb, if_neg hn]

end

/-- A CMD frame delivered on port D is sorted (R188). -/
theorem Delivers.command {s : State} {line : List Pattern} {last : Pattern} {r : Receiver} {args : List Byte} {dest tag code : Byte}
    (hd : Delivers s .d (line ++ [last])
      ⟨frameBytes 0x03 (dest :: tag :: code :: BitVec.ofNat 8 args.length :: args), false⟩ .endSymbol r)
    (h : args.length ≤ 60) (b : List (List Between)) :
    exec (.frameReceived .d line last b) s =
      act (sortCommand (dest :: tag :: code :: BitVec.ofNat 8 args.length :: args)
        (frameBytes 0x03 (dest :: tag :: code :: BitVec.ofNat 8 args.length :: args)) { s with rxD := r }) := by
  rw [hd.frameReceivedD, receiveD, receive_command h]
  rfl

/-- A good frame of port D that is no CMD, or a CMD for another node, passes to the Return Queue (R169, R188, R190). -/
theorem receiveD_passed {f : Arriving} {e : FrameEnd} {kind : Byte} {p : List Byte} (h : receive f e = .good kind p) {s : State}
    (hd : kind = 0x03 → ∀ d, p.head? = some d → d ≠ 63 ∧ d ≠ s.nodeAddr.setWidth 8) : receiveD f e s = enterReturn f.bytes s := by
  rw [receiveD, h]
  dsimp only
  split
  · rename_i hk
    obtain ⟨-, -, h4, -⟩ := receive_good h
    match p, h4 with
    | d :: tag :: code :: n :: args, _ =>
      obtain ⟨hb, hn⟩ := hd hk d rfl
      exact sortCommand_other tag code n args f.bytes s hb hn
  · rfl

/-- Settles O17: the frame is good, and its destination byte decides what it joins. -/
theorem commandFramesAreSortedAndAdmitted : Obligations.CommandFramesAreSortedAndAdmitted := by
  unfold Obligations.CommandFramesAreSortedAndAdmitted
  intro s tag code args line last r b hargs
  refine ⟨fun hnode hd => ?_, fun hd => ?_⟩
  · rw [hd.command hargs, sortCommand_node (s := { s with rxD := r }) (hb := nodeAddr_ne_broadcast hnode) (hn := rfl)]
    rfl
  · rw [hd.command hargs, sortCommand_broadcast, offerBroadcast_eq, enterReturn_eq]
    rfl

/-- Settles O18, by the room of the Return Queue. -/
theorem otherFramesOfPortDPassToTheReturnQueue : Obligations.OtherFramesOfPortDPassToTheReturnQueue := by
  unfold Obligations.OtherFramesOfPortDPassToTheReturnQueue
  intro s line last f e r b kind p hd hg hk
  rw [hd.frameReceivedD, receiveD_passed (s := { s with rxD := r }) hg hk]
  rfl

end Sys2Proof.Machine
end

section
/-! ### Commands that wait, heads of another code, unknown codes and bad arguments (R171, R174, R175, R179 to R182; logs 3, 15) -/

namespace Sys2Proof.Machine

/-! #### The rows as the taking of the command at the head (R171) -/

theorem code_of_hasCode {code : Byte} {c : Command} (h : hasCode code c = true) : c.code = code := beq_iff_eq.mp h

theorem code_of_isReset {scope : ResetScope} {c : Command} (h : isReset scope c = true) : c.code = 0x60 :=
  beq_iff_eq.mp (Bool.and_eq_true_iff.mp h).1

/-- The row of a code takes commands of that code alone (R176 to R182). -/
theorem rowCodes_takeHead {p : Instr × Byte} (h : p ∈ rowCodes) :
    ∃ is run, (∀ s, exec p.1 s = act (takeHead is run s)) ∧ ∀ c, is c = true → c.code = p.2 := by
  simp only [rowCodes, List.mem_cons, List.not_mem_nil, or_false] at h
  rcases h with rfl | rfl | rfl | rfl | rfl | rfl | rfl | rfl | rfl | rfl | rfl | rfl | rfl | rfl | rfl | rfl | rfl | rfl | rfl | rfl |
    rfl | rfl | rfl
  iterate 20 exact ⟨_, _, fun _ => rfl, fun _ => code_of_hasCode⟩
  all_goals exact ⟨_, _, fun _ => rfl, fun _ => code_of_isReset⟩

/-- A row takes nothing where the head is no command of its own (log 3). -/
theorem takeHead_other {s : State} {c : Command} {rest : List Command} (hc : s.cmdFifo = c :: rest) {is : Command → Bool}
    (hi : is c = false) (run : List Byte → State → Answer) : act (takeHead is run s) = .next (settle s) :=
  congrArg act (takeHead_idle fun _ _ hd => .inl ((List.cons.inj (hc.symm.trans hd)).1 ▸ hi))

/-- A row takes nothing from an empty FIFO, nor a unicast command while 8 replies are held (R171). -/
theorem takeHead_waits {s : State}
    (h : s.cmdFifo = [] ∨ ∃ c rest, s.cmdFifo = c :: rest ∧ c.broadcast = false ∧ 8 ≤ s.replies.length) (is : Command → Bool)
    (run : List Byte → State → Answer) : act (takeHead is run s) = .next (settle s) := by
  refine congrArg act (takeHead_idle fun d l hd => .inr ?_)
  rcases h with h | ⟨c, rest, hc, hb, hr⟩
  · rw [h] at hd; cases hd
  · obtain ⟨rfl, -⟩ := List.cons.inj (hc.symm.trans hd)
    rw [mayTake, hb, Bool.false_or, decide_eq_false_iff_not]
    exact Nat.not_lt.mpr hr

/-- A RESET row leaves a RESET of another scope at the head (log 15). -/
theorem takeHead_otherScope {s : State} {c : Command} {rest : List Command} (hc : s.cmdFifo = c :: rest) (scope : ResetScope)
    (run : List Byte → State → Answer) {named : ResetScope} (hs : scopeOf c.args = some named) (hne : named ≠ scope) :
    act (takeHead (isReset scope) run s) = .next (settle s) :=
  takeHead_other hc (by simp [isReset, hs, hne]) run

/-! #### Arguments that name nothing (R110, R147, R158, R175, R179 to R181) -/

theorem roleOf_beyond {b : Byte} (h : 1 < b.toNat) : roleOf b = none := by
  have h₀ : b ≠ 0 := by rintro rfl; exact absurd h (by decide)
  have h₁ : b ≠ 1 := by rintro rfl; exact absurd h (by decide)
  rw [roleOf, if_neg h₀, if_neg h₁]

theorem chanOf_beyond {n : Nat} (h : 96 ≤ n) : chanOf n = none := dif_neg (Nat.not_lt.mpr h)

theorem grpOf_beyond {n : Nat} (h : 8 ≤ n) : grpOf n = none := dif_neg (Nat.not_lt.mpr h)

/-- What is read as a target is the target's bytes (R179). -/
theorem targetOf_sound {args : List Byte} {k : CommitTarget} (h : targetOf args = some k) : args = k.bytes := by
  unfold targetOf at h
  repeat' split at h
  · rename_i hk; cases h; rw [hk]; rfl
  · cases h
  · rename_i a b hk
    cases h
    rw [hk, CommitTarget.bytes, byte2_word2]
    rfl
  · cases h
  · cases h

theorem groupArgOf_none {args : List Byte} (h : ∀ n : Byte, args = [n] → 8 ≤ n.toNat ∧ n ≠ 255) : groupArgOf args = none := by
  unfold groupArgOf
  split
  · obtain ⟨hn, hne⟩ := h _ rfl
    rw [if_neg hne, grpOf_beyond hn]
    rfl
  · rfl

theorem yesNoOf_none {args : List Byte} (h₀ : args ≠ [0]) (h₁ : args ≠ [1]) : yesNoOf args = none := by
  unfold yesNoOf
  split
  · rw [if_neg fun h => h₀ (by rw [h]), if_neg fun h => h₁ (by rw [h])]
  · rfl

theorem byte1_toNat (b : Byte) : byte1 b.toNat = [b] := by
  rw [byte1, BitVec.ofNat_toNat, BitVec.setWidth_eq]

theorem limitFlags_byte {b : Byte} (h : b.toNat < 4) : byte1 (flagAt (b.toNat.testBit 0) 0 + flagAt (b.toNat.testBit 1) 1) = [b] := by
  have hsum : flagAt (b.toNat.testBit 0) 0 + flagAt (b.toNat.testBit 1) 1 = b.toNat := by
    have low : ∀ n : Nat, n < 4 → flagAt (n.testBit 0) 0 + flagAt (n.testBit 1) 1 = n := by decide
    exact low _ h
  rw [hsum, byte1_toNat]

/-- What is read as an expectation is its bytes, behind the code of its kind (R158, R181). -/
theorem expectationOf_sound {kind : Byte} {l : List Byte} {e : Expectation} (h : expectationOf kind l = some e) :
    e.InRange ∧ byte1 e.kind.code = [kind] ∧ l = e.bytes := by
  unfold expectationOf at h
  repeat' split at h
  all_goals cases h
  · rename_i b hk hb
    subst hk
    exact ⟨nofun, rfl, (limitFlags_byte hb).symm⟩
  · rename_i hk hb
    subst hk hb
    exact ⟨nofun, rfl, rfl⟩
  · rename_i hk _ hb
    subst hk hb
    exact ⟨nofun, rfl, rfl⟩
  · rename_i b _ _ hk hb
    subst hk
    exact ⟨fun n hn => by cases hn; exact hb, rfl, (byte1_toNat b).symm⟩
  · rename_i a b c hk
    subst hk
    exact ⟨nofun, rfl, (byte3_word3 a b c).symm⟩

/-- What is read as a test is the test's bytes (R158, R181). -/
theorem testOf_sound {args : List Byte} {p : PendingTest} (h : testOf args = some p) :
    p.expectation.InRange ∧ args = p.args := by
  unfold testOf at h
  split at h
  · rename_i k c x y z l
    split at h
    · rename_i c' e hc he
      cases h
      obtain ⟨hr, hk, hl⟩ := expectationOf_sound he
      have hchan : byte1 c'.val = [c] := by
        unfold chanOf at hc
        split at hc
        · cases hc; exact byte1_toNat c
        · cases hc
      refine ⟨hr, ?_⟩
      rw [PendingTest.args]
      dsimp only
      rw [hk, hchan, byte3_word3, ← hl]
      rfl
    · cases h
  · cases h

/-! #### BADARG, command by command (R174, R175) -/

section
variable {args : List Byte} (u : State)

theorem runReadChannel_badArg (h : ∀ b n : Byte, args = [b, n] → 1 < b.toNat ∨ 96 ≤ n.toNat) :
    runReadChannel args u = refuse u .badArg := by
  unfold runReadChannel
  split
  · rcases h _ _ rfl with h | h
    · rw [roleOf_beyond h]
    · rw [chanOf_beyond h]; cases roleOf _ <;> rfl
  · rfl

theorem runReadGroup_badArg (h : ∀ b n : Byte, args = [b, n] → 1 < b.toNat ∨ 8 ≤ n.toNat) :
    runReadGroup args u = refuse u .badArg := by
  unfold runReadGroup
  split
  · rcases h _ _ rfl with h | h
    · rw [roleOf_beyond h]
    · rw [grpOf_beyond h]; cases roleOf _ <;> rfl
  · rfl

theorem runReadCycle_badArg (h : ∀ b : Byte, args = [b] → 1 < b.toNat) : runReadCycle args u = refuse u .badArg := by
  unfold runReadCycle
  split
  · rw [roleOf_beyond (h _ rfl)]
  · rfl

theorem runCommit_badArg (h : ∀ k : CommitTarget, args ≠ k.bytes) : runCommit args u = refuse u .badArg := by
  have hnone : targetOf args = none := Option.eq_none_iff_forall_ne_some.mpr fun k hk => h k (targetOf_sound hk)
  rw [runCommit, hnone]

theorem runChannelState_badArg (h : ∀ n : Byte, args = [n] → 96 ≤ n.toNat) : runChannelState args u = refuse u .badArg := by
  unfold runChannelState
  split
  · rw [chanOf_beyond (h _ rfl)]
  · rfl

theorem runGroupState_badArg (h : ∀ n : Byte, args = [n] → 8 ≤ n.toNat) : runGroupState args u = refuse u .badArg := by
  unfold runGroupState
  split
  · rw [grpOf_beyond (h _ rfl)]
  · rfl

theorem runLogRead_badArg (h : ∀ n : Byte, args = [n] → n.toNat = 0 ∨ 4 < n.toNat) : runLogRead args u = refuse u .badArg := by
  unfold runLogRead
  split
  · rw [if_neg fun hr => (h _ rfl).elim (by omega) (by omega)]
  · rfl

theorem runLogAck_badArg (h : args.length ≠ 2) : runLogAck args u = refuse u .badArg := by
  unfold runLogAck
  split
  · exact absurd rfl h
  · rfl

theorem runTestCommand_badArg (h : ∀ p : PendingTest, p.expectation.InRange → args ≠ p.args) :
    runTestCommand args u = refuse u .badArg := by
  have hnone : testOf args = none := Option.eq_none_iff_forall_ne_some.mpr fun p hp =>
    h p (testOf_sound hp).1 (testOf_sound hp).2
  rw [runTestCommand, hnone]

end

/-- Settles O39: a row takes nothing where its head waits or is another's, and a refusal is the answer where the arguments name nothing. -/
theorem commandsWaitForRoomAndUnknownOnesAreRefused : Obligations.CommandsWaitForRoomAndUnknownOnesAreRefused := by
  unfold Obligations.CommandsWaitForRoomAndUnknownOnesAreRefused
  intro s
  refine ⟨fun i hi => ?_, fun c rest => ⟨fun hc => ⟨fun p hp hne => ?_, fun hcode => ?_, fun ha => ?_, fun ha => ?_, fun ha => ?_⟩,
    fun hcode hh => ?_, ?_⟩⟩
  · obtain ⟨is, run, hrow, -⟩ := commandRows_takeHead hi
    refine ⟨fun h => (hrow s).trans (takeHead_waits (.inl h) is run), fun c rest hc hb hr => ?_⟩
    exact (hrow s).trans (takeHead_waits (.inr ⟨c, rest, hc, hb, hr⟩) is run)
  · obtain ⟨is, run, hrow, hcode⟩ := rowCodes_takeHead hp
    exact (hrow s).trans (takeHead_other hc (Bool.eq_false_iff.mpr fun h => hne (hcode c h)) run)
  · refine takeHead_other hc ?_ runUnknown
    exact Bool.eq_false_iff.mpr fun h => catalogue_none.mp (Option.isNone_iff_eq_none.mp h) hcode
  · rcases List.mem_pair.mp ha with ha | ha
    · exact takeHead_otherScope hc .runtime runResetRuntime (named := .log) (by rw [ha]; rfl) nofun
    · exact takeHead_otherScope hc .runtime runResetRuntime (named := .device) (by rw [ha]; rfl) nofun
  · rcases List.mem_pair.mp ha with ha | ha
    · exact takeHead_otherScope hc .log runResetLog (named := .runtime) (by rw [ha]; rfl) nofun
    · exact takeHead_otherScope hc .log runResetLog (named := .device) (by rw [ha]; rfl) nofun
  · rcases List.mem_pair.mp ha with ha | ha
    · exact takeHead_otherScope hc .device runResetDevice (named := .runtime) (by rw [ha]; rfl) nofun
    · exact takeHead_otherScope hc .device runResetDevice (named := .log) (by rw [ha]; rfl) nofun
  · exact takeHead_of (a := refuse (taken s rest) .unknown) hh
      (Option.isNone_iff_eq_none.mpr (catalogue_none.mpr hcode)) rfl
  · have refused {code : Byte} {run : List Byte → State → Answer} (h : ∀ u, run c.args u = refuse u .badArg)
        (hh : AtHead s c rest code) : act (takeHead (hasCode code) run s) = answers c .badArg .empty (taken s rest) :=
      takeHead_answers hh rfl (h _)
    refine ⟨fun h => ⟨refused fun u => ?_, refused fun u => ?_, refused fun u => ?_, refused fun u => ?_, refused fun u => ?_⟩,
      fun h => refused fun u => runReadChannel_badArg u h, fun h => refused fun u => runReadGroup_badArg u h,
      fun h => refused fun u => runReadCycle_badArg u h, fun h => refused fun u => runCommit_badArg u h,
      fun h => refused fun u => runChannelState_badArg u h, fun h => refused fun u => runGroupState_badArg u h,
      fun h => ⟨refused fun u => ?_, refused fun u => ?_⟩, fun h => refused fun u => runLogRead_badArg u h,
      fun h => refused fun u => runLogAck_badArg u h, fun h => refused fun u => runTestCommand_badArg u h,
      fun h₀ h₁ => refused fun u => ?_⟩
    · rw [runIdentify, if_pos h]
    · rw [runStatus, if_pos h]
    · rw [runCancel, if_pos h]
    · rw [runBypass, if_pos h]
    · rw [runLogClear, if_pos h]
    · rw [runTrip, groupArgOf_none h]
    · rw [runRearm, groupArgOf_none h]
    · rw [runTestResult, yesNoOf_none h₀ h₁]

end Sys2Proof.Machine
end
section
/-! ### The line code read back, and a frame sent in it delimited whole (R186 to R188, R193; log 21) -/

namespace Sys2Proof.Machine

/-! #### The two groups of bits of a byte's pattern (R186) -/

/-- The first six bits of a pattern tell the low five bits of its byte, at either disparity. -/
theorem sixTable_findIdx? (d : Disparity) (low : Fin 32) :
    sixTable.findIdx? (fun t => t.1 == d.pick (sixTable.getD low (0, 0)) || t.2 == d.pick (sixTable.getD low (0, 0))) =
      some low.val := by
  revert low
  cases d <;> decide

/-- The last four bits of a pattern, in their other form or not. -/
def fourGroup (d : Disparity) (high : Nat) (other : Prop) [Decidable other] : BitVec 4 :=
  d.pick (if high = 7 ∧ other then fourAlternate else fourTable.getD high (0, 0))

/-- The last four bits of a pattern tell the high three bits of its byte, in either form and at either disparity. -/
theorem fourTable_findIdx? (d : Disparity) (high : Fin 8) (other : Bool) :
    ∃ i, (fourTable ++ [fourAlternate]).findIdx?
        (fun t => t.1 == fourGroup d high (other = true) || t.2 == fourGroup d high (other = true)) = some i ∧
      min i 7 = high.val := by
  revert high
  cases d <;> cases other <;> decide

theorem dataPattern_groups (d : Disparity) (b : Byte) :
    ∃ d' : Disparity, dataPattern d b = d.pick (sixTable.getD (b.toNat % 32) (0, 0)) ++
      fourGroup d' (b.toNat / 32) (takesAlternate d' (b.toNat % 32) = true) := ⟨_, rfl⟩

theorem byteCandidate_dataPattern (d : Disparity) (b : Byte) : byteCandidate (dataPattern d b) = some b := by
  have hb := b.isLt
  obtain ⟨d', groups⟩ := dataPattern_groups d b
  obtain ⟨i, high, hi⟩ := fourTable_findIdx? d' ⟨b.toNat / 32, by omega⟩ (takesAlternate d' (b.toNat % 32))
  have low := sixTable_findIdx? d ⟨b.toNat % 32, by omega⟩
  have whole : BitVec.ofNat 8 (32 * min i 7 + b.toNat % 32) = b := by
    rw [hi, Nat.div_add_mod, BitVec.ofNat_toNat, BitVec.setWidth_eq]
  rw [groups, byteCandidate, BitVec.extractLsb'_append_eq_left, BitVec.extractLsb'_append_eq_right]
  dsimp only at high low ⊢
  rw [low, high]
  exact congrArg some whole

/-! #### The symbols (R186, R187) -/

theorem isOf_iff (pair : Disparity → Pattern) (q : Pattern) : isOf pair q = true ↔ ∃ d, q = pair d := by
  simp only [isOf, Bool.or_eq_true, beq_iff_eq]
  exact ⟨fun h => h.elim (fun h => ⟨.minus, h⟩) fun h => ⟨.plus, h⟩, fun ⟨d, h⟩ => by cases d <;> simp [h]⟩

/-- A pattern is read as a byte exactly where it is one of the byte's two patterns (R186). -/
theorem byteOf_eq_some_iff (q : Pattern) (b : Byte) : byteOf q = some b ↔ ∃ d, q = dataPattern d b := by
  rw [byteOf, Option.filter_eq_some_iff, isOf_iff]
  exact ⟨fun h => h.2, fun h => ⟨by obtain ⟨d, rfl⟩ := h; exact byteCandidate_dataPattern d b, h⟩⟩

/-- No pattern of a control symbol is one of a byte (R186). -/
theorem byteOf_control (d : Disparity) :
    byteOf (idlePattern d) = none ∧ byteOf (startPattern d) = none ∧ byteOf (finishPattern d) = none := by
  cases d <;> decide

theorem symbolOf_control (d : Disparity) :
    symbolOf (idlePattern d) = .idle ∧ symbolOf (startPattern d) = .start ∧ symbolOf (finishPattern d) = .finish := by
  cases d <;> decide

/-- A pattern that stands for a byte is no control symbol's (R186). -/
theorem not_control_of_byteOf {q : Pattern} {b : Byte} (h : byteOf q = some b) :
    isOf idlePattern q = false ∧ isOf startPattern q = false ∧ isOf finishPattern q = false := by
  refine ⟨?_, ?_, ?_⟩ <;> refine Bool.eq_false_iff.mpr fun hq => ?_ <;> obtain ⟨d, rfl⟩ := (isOf_iff _ q).mp hq
  · rw [(byteOf_control d).1] at h; cases h
  · rw [(byteOf_control d).2.1] at h; cases h
  · rw [(byteOf_control d).2.2] at h; cases h

theorem symbolOf_dataPattern (d : Disparity) (b : Byte) : symbolOf (dataPattern d b) = .data b := by
  have byte := (byteOf_eq_some_iff _ b).mpr ⟨d, rfl⟩
  obtain ⟨idle, start, finish⟩ := not_control_of_byteOf byte
  simp [symbolOf, idle, start, finish, byte]

/-- Every pattern that is neither a byte's nor a control symbol's is a code violation, and no other is (R187). -/
theorem symbolOf_eq_violation_iff (q : Pattern) :
    symbolOf q = .violation ↔
      ∀ d : Disparity, q ≠ idlePattern d ∧ q ≠ startPattern d ∧ q ≠ finishPattern d ∧ ∀ b : Byte, q ≠ dataPattern d b := by
  constructor
  · refine fun h d => ⟨?_, ?_, ?_, fun b => ?_⟩ <;> rintro rfl
    · rw [(symbolOf_control d).1] at h; cases h
    · rw [(symbolOf_control d).2.1] at h; cases h
    · rw [(symbolOf_control d).2.2] at h; cases h
    · rw [symbolOf_dataPattern] at h; cases h
  · intro h
    have control {pair : Disparity → Pattern} (hp : ∀ d, q ≠ pair d) : ¬ isOf pair q = true := fun hq =>
      ((isOf_iff pair q).mp hq).elim hp
    have byte : byteOf q = none := Option.eq_none_iff_forall_ne_some.mpr fun b hb =>
      ((byteOf_eq_some_iff q b).mp hb).elim fun d hd => (h d).2.2.2 b hd
    rw [symbolOf, if_neg (control fun d => (h d).1), if_neg (control fun d => (h d).2.1), if_neg (control fun d => (h d).2.2.1), byte]

/-- A frame sent in the line code is read as START, its bytes and END, at whichever disparity it begins (R186, R193). -/
theorem lineOf_symbols (d : Disparity) (l : List Byte) :
    (lineOf d l).map symbolOf = .start :: (l.map .data ++ [.finish]) := by
  have behind (d : Disparity) : (sendBytes d l).map symbolOf = l.map .data ++ [.finish] := by
    induction l generalizing d with
    | nil => rw [sendBytes, List.map_singleton, (symbolOf_control d).2.2]; rfl
    | cons b l ih => rw [sendBytes, List.map_cons, symbolOf_dataPattern, ih]; rfl
  rw [lineOf, List.map_cons, (symbolOf_control d).2.1, behind]

/-! #### Delimiting (R188) -/

theorem count_marks_clean {m : List Bool} (hc : m.count true ≤ 3) (n : Nat) : ((false :: m).take n).count true ≤ 3 := by
  have := (List.take_sublist n (false :: m)).count_le true
  rw [List.count_cons_of_ne (by decide)] at this
  omega

/-- An UP receiver with no more than three violations in reach takes a symbol that is none: it is delimited, and a clean mark joins the
others (R187, R188). -/
theorem Receiver.take_clean {r : Receiver} (hc : r.recent.count true ≤ 3) {x : Symbol} (hx : (x == .violation) = false) :
    r.take true x =
      ({ r with recent := (false :: r.recent).take 63, frame := (delimit r.frame x).1 }, (delimit r.frame x).2) := by
  have few : ¬ 4 ≤ ((false :: r.recent).take 64).count true := Nat.not_le.mpr (Nat.lt_succ_of_le (count_marks_clean hc 64))
  simp only [Receiver.take, if_true, Receiver.takeUp, hx, if_neg few, List.take_take]
  rfl

/-- `n` clean marks in front of those a receiver keeps (R187). -/
def cleanMarks (n : Nat) (m : List Bool) : List Bool := (List.replicate n false ++ m).take 63

theorem cleanMarks_cons (n : Nat) (m : List Bool) : cleanMarks n ((false :: m).take 63) = cleanMarks (n + 1) m := by
  rw [cleanMarks, take_append_take, cleanMarks, List.replicate_succ', List.append_assoc]
  rfl

/-- The rest of an open frame, its bytes and its END, is delimited whole while it stays within 513 bytes (R188). -/
theorem Receiver.run_rest {r : Receiver} {l₀ l : List Byte} (hf : r.frame = some ⟨l₀, false⟩) (hc : r.recent.count true ≤ 3)
    (hl : l₀.length + l.length ≤ 513) :
    r.run true (l.map .data ++ [.finish]) =
      ({ r with recent := cleanMarks (l.length + 1) r.recent, frame := none },
        some (.frame ⟨l₀ ++ l, false⟩ .endSymbol, [])) := by
  induction l generalizing r l₀ with
  | nil =>
    rw [List.map_nil, List.nil_append, Receiver.run, take_clean hc rfl, hf, List.append_nil]
    rfl
  | cons b l ih =>
    have room : l₀.length < 513 := by rw [List.length_cons] at hl; omega
    have more : (⟨l₀, false⟩ : Arriving).more b = (some ⟨l₀ ++ [b], false⟩, none) := if_pos room
    rw [List.map_cons, List.cons_append, Receiver.run, take_clean hc rfl, hf, delimit, more]
    dsimp only
    rw [ih rfl (count_marks_clean hc 63) (by simpa [Nat.add_assoc, Nat.add_comm 1] using hl), cleanMarks_cons, List.append_assoc]
    rfl

/-- A frame of up to 513 bytes sent to an idle UP receiver is delimited whole, byte for byte (R188, R193). -/
theorem Receiver.run_lineOf {r : Receiver} (hf : r.frame = none) (hc : r.recent.count true ≤ 3) (d : Disparity) {l : List Byte}
    (hl : l.length ≤ 513) :
    r.run true ((lineOf d l).map symbolOf) =
      ({ r with recent := (List.replicate (l.length + 2) false ++ r.recent).take 63 },
        some (.frame ⟨l, false⟩ .endSymbol, [])) := by
  rw [lineOf_symbols, Receiver.run, take_clean hc rfl, hf, delimit]
  dsimp only
  rw [run_rest (l₀ := []) rfl (count_marks_clean hc 63) (by simpa using hl), cleanMarks_cons, ← hf]
  rfl

end Sys2Proof.Machine
end

section
/-! ### The frames that this part builds, and the 14 bytes of a log record (R188, R196, R197) -/

namespace Sys2Proof.Machine

/-! #### Numbers in bytes (R196) -/

theorem byte1_read {n : Nat} (h : n < 256) : (BitVec.ofNat 8 n : Byte).toNat = n := by
  rw [BitVec.toNat_ofNat, Nat.mod_eq_of_lt h]

/-- A number written in two bytes reads back as its low 16 bits (R196). -/
theorem word2_ofNat (n : Nat) : word2 (BitVec.ofNat 8 (n / 256)) (BitVec.ofNat 8 n) = BitVec.ofNat 16 n := by
  rw [← word2_bytes (BitVec.ofNat 16 n)]
  congr 1 <;> apply BitVec.eq_of_toNat_eq <;> simp only [BitVec.toNat_ofNat] <;> omega

/-- A number written in three bytes reads back as its low 24 bits (R196). -/
theorem word3_ofNat (n : Nat) :
    word3 (BitVec.ofNat 8 (n / 65536)) (BitVec.ofNat 8 (n / 256)) (BitVec.ofNat 8 n) = BitVec.ofNat 24 n := by
  rw [← word3_bytes (BitVec.ofNat 24 n)]
  congr 1 <;> apply BitVec.eq_of_toNat_eq <;> simp only [BitVec.toNat_ofNat] <;> omega

/-- An optional word written as a number, 0 where it is absent, reads back as the word or 0 (R196, R197). -/
theorem word2_option (o : Option (BitVec 16)) :
    word2 (BitVec.ofNat 8 ((o.map (·.toNat)).getD 0 / 256)) (BitVec.ofNat 8 ((o.map (·.toNat)).getD 0)) = o.getD 0 := by
  cases o with
  | none => rfl
  | some w => exact word2_bytes w

/-! #### SEG frames held in their parsed form (R193, R196; log 19) -/

/-- A SEG payload in its form is that of the segment it is read as (R196). -/
theorem payload_readSegment {p : List Byte} (h : payloadForm 0x01 p = true) : (readSegment p).payload = p := by
  match p, h with
  | a :: b :: sb :: n :: rest, h =>
    obtain ⟨-, length⟩ : n.toNat ≤ 48 ∧ (a :: b :: sb :: n :: rest).length = 4 + 5 * n.toNat := by simpa [payloadForm] using h
    simp only [List.length_cons] at length
    obtain ⟨bytes, count⟩ := readEntries_flatMap n.toNat rest (by omega)
    simp only [readSegment, Segment.payload, byte2_word2, count, byte1_toNat, bytes]
    rfl

/-- A good SEG frame leaves, held in its parsed form, as the bytes received (R188, R193). -/
theorem seg_bytes_of_good {f : Arriving} {e : FrameEnd} {p : List Byte} (h : receive f e = .good 0x01 p) :
    (Frame.seg (readSegment p)).bytes = f.bytes := by
  obtain ⟨bytes, form, -⟩ := receive_good h
  rw [Frame.bytes, payload_readSegment form, bytes]

/-! #### FILL, ALERT and REPLY (R188, R196) -/

theorem receive_fill (n : CycleNo) {l : List SampleEntry} (h₁ : 1 ≤ l.length) (h₂ : l.length ≤ 96) :
    receive ⟨(Frame.fill n l).bytes, false⟩ .endSymbol = .good 0x02 (fillPayload n l) := by
  have length := fillPayload_length n l
  exact receive_frameBytes (by omega) (by omega) (fillPayload_form n h₁ h₂)

/-- A FILL payload gives back its cycle number, its count and its entries (R196). -/
theorem fillPayload_read (n : CycleNo) {l : List SampleEntry} (h : l.length ≤ 96) :
    let p := fillPayload n l
    word2 (p.getD 0 0) (p.getD 1 0) = n ∧ (p.getD 2 0).toNat = l.length ∧ readEntries l.length (p.drop 3) = l :=
  ⟨word2_bytes n, byte1_read (by omega), readEntries_bytes l⟩

theorem receive_alert (a : Alert) : receive ⟨(Frame.alert a).bytes, false⟩ .endSymbol = .good 0x05 a.payload := by
  have length := a.payload_length
  exact receive_frameBytes (by omega) (by omega) ((payloadForm_iff (by omega)).mpr ⟨nofun, nofun, nofun, fun _ => length⟩)

theorem nodeByte_read (a : BitVec 6) : (BitVec.ofNat 8 a.toNat : Byte).toNat = a.toNat := byte1_read (by omega)

/-- The flag byte of an ALERT: bit 0 for the newest sequence, bit 1 for the record (R196). -/
theorem alertFlags_read (newest record : Bool) :
    (BitVec.ofNat 8 (flagAt newest 0 + flagAt record 1) : Byte).toNat = (if newest then 1 else 0) + if record then 2 else 0 := by
  cases newest <;> cases record <;> rfl

/-- An ALERT payload gives back its fields, an absent one as zero bytes behind a clear flag (R196). -/
theorem Alert.payload_read (a : Alert) (hc : a.logCount ≤ 64) (hl : a.lost ≤ 65535) :
    let p := a.payload
    (p.getD 0 0).toNat = a.source.toNat ∧
      (p.getD 1 0).toNat = (if a.newest.isSome then 1 else 0) + (if a.record.isSome then 2 else 0) ∧
      word2 (p.getD 2 0) (p.getD 3 0) = a.newest.getD 0 ∧ (p.getD 4 0).toNat = a.logCount ∧
      (word2 (p.getD 5 0) (p.getD 6 0)).toNat = a.lost ∧
      (∀ r, a.record = some r → p.drop 7 = r.bytes) ∧ (a.record = none → p.drop 7 = List.replicate 14 0) := by
  have rest : a.payload.drop 7 = (a.record.map LogRecord.bytes).getD (List.replicate 14 0) := rfl
  refine ⟨nodeByte_read a.source, alertFlags_read _ _, word2_option a.newest, byte1_read (by omega), ?_, fun r hr => ?_, fun hr => ?_⟩
  · exact (congrArg BitVec.toNat (word2_ofNat a.lost)).trans (Nat.mod_eq_of_lt (by omega))
  · rw [rest, hr]; rfl
  · rw [rest, hr]; rfl

theorem Reply.payload_length (r : Reply) : r.payload.length = 4 + r.result.bytes.length := by
  simp only [Reply.payload, List.length_append, byte1_length, List.length_cons, List.length_nil]

theorem receive_reply {r : Reply} (h : r.result.bytes.length ≤ 504) :
    receive ⟨(Frame.reply r).bytes, false⟩ .endSymbol = .good 0x04 r.payload := by
  have length := r.payload_length
  exact receive_frameBytes (by omega) (by omega) rfl

theorem Status.code_le (s : Status) : s.code ≤ 10 := by cases s <;> decide

/-- A REPLY payload gives back its four fields and the bytes of its result (R196). -/
theorem Reply.payload_read (r : Reply) :
    let p := r.payload
    (p.getD 0 0).toNat = r.source.toNat ∧ p.getD 1 0 = r.tag ∧ p.getD 2 0 = r.code ∧ (p.getD 3 0).toNat = r.status.code ∧
      p.drop 4 = r.result.bytes :=
  ⟨nodeByte_read r.source, rfl, rfl, byte1_read (by have := r.status.code_le; omega), rfl⟩

/-! #### Log records (R197) -/

theorem RecordBody.kindCode_le (b : RecordBody) : b.kindCode ≤ 9 := by cases b <;> exact Nat.le_of_ble_eq_true rfl

theorem flagAt_zero (b : Bool) : flagAt b 0 = b.toNat := by cases b <;> rfl

theorem flagAt_succ (b : Bool) (i : Nat) : flagAt b (i + 1) = 2 * flagAt b i := by
  cases b
  · rfl
  · exact Nat.pow_succ'

/-- Six flags as a number, one bit each: the number's bits are the flags. -/
theorem testBit_flags (a b c d e f : Bool) (i : Nat) :
    (flagAt a 0 + flagAt b 1 + flagAt c 2 + flagAt d 3 + flagAt e 4 + flagAt f 5).testBit i = [a, b, c, d, e, f].getD i false := by
  have bits : flagAt a 0 + flagAt b 1 + flagAt c 2 + flagAt d 3 + flagAt e 4 + flagAt f 5 =
      Nat.bit a (Nat.bit b (Nat.bit c (Nat.bit d (Nat.bit e (Nat.bit f 0))))) := by
    simp only [flagAt_succ, flagAt_zero, Nat.bit_val]
    omega
  rw [bits]
  match i with
  | 0 | 1 | 2 | 3 | 4 | 5 => simp [Nat.testBit_bit_succ]
  | i + 6 => simp [Nat.testBit_bit_succ]

/-- Bits 0 to 5 of the presence byte mark the cycle and f1 to f5; its other bits are clear (R197). -/
theorem presence_getLsbD (n : Option CycleNo) (f : RecordFields) (i : Nat) :
    (BitVec.ofNat 8 (presence n f) : Byte).getLsbD i =
      [n.isSome, f.f1.isSome, f.f2.isSome, f.f3.isSome, f.f4.isSome, f.f5.isSome].getD i false := by
  rw [BitVec.getLsbD_ofNat, presence, testBit_flags, Bool.and_eq_right_iff_imp]
  intro present
  have : i < 6 := by
    by_contra beyond
    rw [List.getD_eq_default _ _ (Nat.not_lt.mp beyond)] at present
    cases present
  exact decide_eq_true (by omega)

/-- A record in its 14 bytes gives back its sequence, kind, presence marks and fields (R197). -/
theorem LogRecord.bytes_read (r : LogRecord) :
    let b := fun i => r.bytes.getD i 0
    let f := r.body.fields
    r.bytes.length = 14 ∧ word2 (b 0) (b 1) = r.sequence ∧ (b 2).toNat = r.body.kindCode ∧ r.body.kindCode ≤ 9 ∧
      (∀ i, (b 3).getLsbD i =
        [r.cycle.isSome, f.f1.isSome, f.f2.isSome, f.f3.isSome, f.f4.isSome, f.f5.isSome].getD i false) ∧
      word2 (b 4) (b 5) = r.cycle.getD 0 ∧ b 6 = BitVec.ofNat 8 (f.f1.getD 0) ∧ b 7 = BitVec.ofNat 8 (f.f2.getD 0) ∧
      word3 (b 8) (b 9) (b 10) = BitVec.ofNat 24 (f.f3.getD 0) ∧ b 11 = BitVec.ofNat 8 (f.f4.getD 0) ∧
      word2 (b 12) (b 13) = BitVec.ofNat 16 (f.f5.getD 0) := by
  have kind := r.body.kindCode_le
  exact ⟨rfl, word2_bytes r.sequence, byte1_read (by omega), kind, presence_getLsbD r.cycle r.body.fields, word2_option r.cycle, rfl, rfl,
    word3_ofNat _, rfl, word2_ofNat _⟩

/-- Settles O16, by the reading back of each layout. -/
theorem segmentSurvivesTheWire : Obligations.SegmentSurvivesTheWire := by
  unfold Obligations.SegmentSurvivesTheWire
  refine ⟨⟨symbolOf_dataPattern, symbolOf_control, symbolOf_eq_violation_iff⟩, fun r d l hf _ hc hl => Receiver.run_lineOf hf hc d hl,
    fun g hg => ⟨receive_segment hg, readSegment_payload hg⟩, fun f e p => seg_bytes_of_good, fun n l h₁ h₂ => ?_, fun a hc hl => ?_,
    fun r hr => ?_, LogRecord.bytes_read⟩
  · exact ⟨_, receive_fill n h₁ h₂, fillPayload_length n l, fillPayload_read n h₂⟩
  · exact ⟨_, receive_alert a, a.payload_length, a.payload_read hc hl⟩
  · exact ⟨_, receive_reply hr, r.payload_read⟩

end Sys2Proof.Machine
end

section
/-! ### A DOWN port's run of IDLE, and the ends of transmissions (R187, R192, R193; log 7) -/

namespace Sys2Proof.Machine

/-! #### Runs of IDLE among symbols (R187) -/

/-- No 64 IDLE in a row begin before a symbol that is not IDLE with fewer than 64 before it (R187). -/
theorem idleRun_break {k : Nat} (hk : k ≤ 63) {x : Symbol} (hx : x ≠ .idle) (l : List Symbol) :
    IdleRun (List.replicate k .idle ++ x :: l) ↔ IdleRun l := by
  constructor
  · rintro ⟨before, after, h⟩
    rw [List.append_assoc] at h
    rcases List.append_eq_append_iff.mp h with ⟨front, rfl, rest⟩ | ⟨back, whole, rest⟩
    · cases front with
      | nil => exact absurd (List.cons.inj rest).1 hx
      | cons y front => exact ⟨front, after, by rw [List.append_assoc]; exact (List.cons.inj rest).2⟩
    · have short : back.length < 64 := by
        have := congrArg List.length whole
        rw [List.length_replicate, List.length_append] at this
        omega
      have within : (List.replicate 64 Symbol.idle ++ after)[back.length]? = some .idle := by
        rw [List.getElem?_append_left (by simpa using short), List.getElem?_replicate_of_lt short]
      rw [rest, List.getElem?_append_right (Nat.le_refl _), Nat.sub_self] at within
      exact absurd (Option.some.inj within) hx
  · rintro ⟨before, after, rfl⟩
    exact ⟨List.replicate k .idle ++ x :: before, after, by simp⟩

theorem not_idleRun_short {k : Nat} (hk : k ≤ 63) : ¬ IdleRun (List.replicate k .idle) := by
  rintro ⟨before, after, h⟩
  have := congrArg List.length h
  simp only [List.length_append, List.length_replicate] at this
  omega

theorem idleTail_replicate (k : Nat) : idleTail (List.replicate k .idle) = k := by
  simp [idleTail]

/-- The run that symbols end with begins behind their last symbol that is not IDLE (R187). -/
theorem idleTail_break {x : Symbol} (hx : x ≠ .idle) (l₀ l : List Symbol) : idleTail (l₀ ++ x :: l) = idleTail l := by
  have stop : (x == .idle) = false := beq_eq_false_iff_ne.mpr hx
  simp only [idleTail, List.reverse_append, List.reverse_cons, List.append_assoc, List.singleton_append, List.takeWhile_append,
    List.takeWhile_cons, stop]
  split
  · rename_i whole; simpa using whole.symm
  · rfl

/-! #### What a DOWN receiver makes of them (R187) -/

/-- A DOWN receiver in a run of `k` IDLE (R187). -/
def idling (k : Nat) : Receiver := { Receiver.quiet with idleRun := k }

/-- Of what it keeps, a DOWN receiver reads the length of its run alone (R187). -/
theorem Receiver.run_down_idling (r : Receiver) (x : Symbol) (l : List Symbol) :
    r.run false (x :: l) = (idling r.idleRun).run false (x :: l) := rfl

theorem replicate_idle_cons (k : Nat) (l : List Symbol) :
    List.replicate k .idle ++ .idle :: l = List.replicate (k + 1) .idle ++ l := by
  rw [List.replicate_succ', List.append_assoc]
  rfl

/-- A DOWN receiver comes UP where its run and the symbols taken make 64 consecutive IDLE (R187). -/
theorem run_idling_comesUp {k : Nat} (hk : k ≤ 63) {l : List Symbol} (h : IdleRun (List.replicate k .idle ++ l)) :
    ∃ rest, (idling k).run false l = (.quiet, some (.comesUp, rest)) := by
  induction l generalizing k with
  | nil => exact absurd (by simpa using h) (not_idleRun_short hk)
  | cons x l ih =>
    by_cases hx : x = .idle
    · subst hx
      rw [replicate_idle_cons] at h
      by_cases last : 64 ≤ k + 1
      · exact ⟨l, by simp [Receiver.run, Receiver.take, Receiver.takeDown, idling, last]⟩
      · have next : (idling k).take false .idle = (idling (k + 1), none) := by
          simp [Receiver.take, Receiver.takeDown, idling, last]
        rw [Receiver.run, next]
        exact ih (by omega) h
    · have next : (idling k).take false x = (idling 0, none) := if_neg hx
      rw [Receiver.run, next]
      exact ih (Nat.zero_le _) (by simpa using (idleRun_break hk hx l).mp h)

/-- Without 64 consecutive IDLE a DOWN receiver keeps the run that the symbols end with (R187). -/
theorem run_idling_stays {k : Nat} (hk : k ≤ 63) {l : List Symbol} (h : ¬ IdleRun (List.replicate k .idle ++ l)) :
    (idling k).run false l = (idling (idleTail (List.replicate k .idle ++ l)), none) := by
  induction l generalizing k with
  | nil => rw [List.append_nil, idleTail_replicate]; rfl
  | cons x l ih =>
    by_cases hx : x = .idle
    · subst hx
      rw [replicate_idle_cons] at h ⊢
      have more : ¬ 64 ≤ k + 1 := fun full => by
        obtain rfl : k = 63 := by omega
        exact h ⟨[], l, rfl⟩
      have next : (idling k).take false .idle = (idling (k + 1), none) := by
        simp [Receiver.take, Receiver.takeDown, idling, more]
      rw [Receiver.run, next]
      exact ih (by omega) h
    · have next : (idling k).take false x = (idling 0, none) := if_neg hx
      rw [Receiver.run, next, idleTail_break hx]
      exact ih (Nat.zero_le _) fun run => h ((idleRun_break hk hx l).mpr (by simpa using run))

/-! #### PORT_UP and FRAME_TRANSMIT_END (R187, R192, R193) -/

section
variable {s : State} {p : Port} {line : List Pattern}

/-- Where a DOWN port's run and the symbols taken make 64 consecutive IDLE the port comes UP, its receiver keeping nothing (R187). -/
theorem takeFrom_comesUp (hd : s.up p = false) (hr : (s.rx p).idleRun ≤ 63) (run : IdleRun (runWith (s.rx p) line))
    (b : List (List Between)) : takeFrom p line b s = portUpOp p (s.setRx p .quiet) := by
  cases line with
  | nil => exact absurd (by simpa [runWith] using run) (not_idleRun_short hr)
  | cons x line =>
    obtain ⟨rest, up⟩ := run_idling_comesUp hr run
    rw [takeFrom, takeLine_eq, hd, List.map_cons, Receiver.run_down_idling, ← List.map_cons, up]
    cases p <;> rfl

/-- Else a DOWN port keeps the run that the symbols end with (R187; log 7). -/
theorem takeFrom_staysDown (hd : s.up p = false) (hr : (s.rx p).idleRun ≤ 63) (run : ¬ IdleRun (runWith (s.rx p) line))
    (b : List (List Between)) :
    takeFrom p line b s = s.setRx p (if line = [] then s.rx p else idling (idleTail (runWith (s.rx p) line))) := by
  cases line with
  | nil => rfl
  | cons x line =>
    have down := run_idling_stays hr run
    rw [takeFrom, takeLine_eq, hd, List.map_cons, Receiver.run_down_idling, ← List.map_cons, down]
    rfl

end

theorem transmitEnd_sent {s : State} {f : OnLine} (h : s.txD = some f) :
    transmitEnd .d s = { s with txD := none, slotOwed := s.slotOwed || f.ending } := by
  rw [transmitEnd, h]

theorem transmitEnd_idle {s : State} (h : s.txD = none) : transmitEnd .d s = s := by
  rw [transmitEnd, h]

/-- Settles O12, by what a DOWN port takes and what the end of a transmission does. -/
theorem portUpAndTransmitEndTouchOnlyTheirPort : Obligations.PortUpAndTransmitEndTouchOnlyTheirPort := by
  unfold Obligations.PortUpAndTransmitEndTouchOnlyTheirPort
  intro s
  refine ⟨fun p line hd hr => ⟨fun run => ?_, fun run => ?_⟩, rfl, fun f hf => congrArg act (transmitEnd_sent hf),
    fun hf => congrArg act (transmitEnd_idle hf)⟩
  · refine congrArg act ((takeFrom_comesUp hd hr run []).trans ?_)
    cases p <;> rfl
  · exact congrArg act (takeFrom_staysDown hd hr run [])

end Sys2Proof.Machine
end

section
/-! ### Port D goes DOWN (R187, R192, R194) -/

namespace Sys2Proof.Machine

section
variable {s : State} {c : DownCause}

/-- Whatever takes an UP port D DOWN, the part is left as by the port's going DOWN (R187, R194). -/
theorem SignalFails.causeD (h : SignalFails s .d c) (hu : s.upD = true) : causeD c s = portDDownOp s := by
  rcases h with rfl | ⟨line, r, rfl, hb⟩
  · rfl
  · refine (hb.takeFrom []).trans ?_
    change portDDownOp (s.setRx .d r) = _
    rw [portDDownOp, if_pos (show (s.setRx .d r).upD = true from hu), portDDownOp, if_pos hu]
    rfl

/-- What the end of a transmission leaves is lost as its port goes DOWN (R194). -/
theorem portDDownOp_transmitEnd (hu : s.upD = true) : portDDownOp (transmitEnd .d s) = portDDownOp s := by
  cases ht : s.txD with
  | none => rw [transmitEnd_idle ht]
  | some f => rw [transmitEnd_sent ht, portDDownOp, if_pos (show s.upD = true from hu), portDDownOp, if_pos hu]

/-- The end of a transmission touches no receiver and no link state (R193). -/
theorem transmitEnd_receives (s : State) (p : Port) : (transmitEnd .d s).rx p = s.rx p ∧ (transmitEnd .d s).up p = s.up p := by
  unfold transmitEnd
  cases p <;> dsimp only <;> split <;> exact ⟨rfl, rfl⟩

theorem SignalFails.transmitEnd (h : SignalFails s .d c) : SignalFails (transmitEnd .d s) .d c :=
  h.congr (transmitEnd_receives s .d).1 (transmitEnd_receives s .d).2

theorem takeWhile_complete (h : ForwardSettled s) : s.forward.takeWhile (·.complete) = s.forward :=
  List.takeWhile_eq_self_iff.mpr fun q hq => (h.1 q hq).1

theorem dropWhile_complete (h : ForwardSettled s) : s.forward.dropWhile (·.complete) = [] :=
  List.dropWhile_eq_nil_iff.mpr fun q hq => (h.1 q hq).1

theorem decide_countP_pos {α : Type} (p : α → Bool) (l : List α) : decide (0 < l.countP p) = l.any p := by
  rw [Bool.eq_iff_iff, decide_eq_true_iff, List.countP_pos_iff, List.any_eq_true]

/-- Once port D has gone DOWN between steps, all that awaits it is discarded at its turn, a discarded ending mark setting slot owed
(R192, R194). -/
theorem settle_portDDownOp (hu : s.upD = true) (hf : ForwardSettled s) :
    settle (portDDownOp s) = returnSend
      { s with upD := false, rxD := ⟨0, [], none⟩, txD := none, replies := [], alertSlot := none, forward := [],
               slotOwed := s.forward.any (·.ending) } := by
  rw [portDDownOp, if_pos hu, settle_down rfl rfl]
  dsimp only
  rw [takeWhile_complete hf, dropWhile_complete hf]
  simp only [List.length_nil, Option.isSome_none, Bool.false_eq_true, if_false, Nat.add_zero, decide_countP_pos]
  rfl

end

/-- Settles O13: what fails the signal takes an UP port D DOWN, and all that awaits it is discarded. -/
theorem portDDownCutsOffAndEmpties : Obligations.PortDDownCutsOffAndEmpties := by
  unfold Obligations.PortDDownCutsOffAndEmpties
  intro s
  refine ⟨fun c fails hu hf => ?_, fun l x r hu hr quiet => ⟨?_, quiet.goesDown_iff (p := .d) hu hr x⟩, fun hd => ?_⟩
  · have upStill : (transmitEnd .d s).upD = true := (transmitEnd_receives s .d).2.trans hu
    rw [← settle_portDDownOp hu hf]
    exact ⟨congrArg act (fails.causeD hu),
      congrArg act ((fails.transmitEnd.causeD upStill).trans (portDDownOp_transmitEnd hu))⟩
  · exact congrArg act (quiet.takeFrom [])
  · have still : portDDownOp s = s := if_neg (by rw [hd]; decide)
    exact congrArg act still

end Sys2Proof.Machine
end

section
/-! ### The transmitters have no further choice to make (R190, R192, R194, R195) -/

namespace Sys2Proof.Machine

section
variable {s : State}

theorem arbiterChoice_eq_none_iff : arbiterChoice s = none ↔ s.alertSlot = none ∧ s.replies = [] ∧ s.headReady = false := by
  refine ⟨fun h => ?_, fun ⟨ha, hr, hh⟩ => arbiterChoice_nothing ha hr hh⟩
  unfold arbiterChoice at h
  split at h
  · rename_i turn
    obtain ⟨f, replies, slot, taken, -⟩ := takeOutbound_some (Bool.and_eq_true_iff.mp turn).1
    rw [taken] at h
    cases h
  · rename_i waits
    split at h
    · rename_i ready
      unfold takeForward at h
      split at h
      · cases h
      · rename_i empty
        rw [State.headReady, empty] at ready
        cases ready
    · rename_i ready
      have none := Bool.eq_false_iff.mpr ready
      have empty : s.outbound = false := by simpa [none] using waits
      obtain ⟨ha, hr⟩ := State.outbound_eq_false.mp empty
      exact ⟨ha, hr, none⟩

/-- Port D's transmitter has nothing to choose: a frame is on its line, or none is ready (R192). -/
def Chosen (s : State) : Prop := s.txD.isSome = true ∨ arbiterChoice s = none

theorem Chosen.settle (h : Chosen s) : settle s = returnSend s :=
  h.elim (fun busy => by rw [Machine.settle, arbitrate_busy busy]) settle_nothing

theorem Chosen.returnSend (h : Chosen s) : Chosen (returnSend s) := by
  refine h.imp (fun busy => by rwa [returnSend_txD]) fun nothing => ?_
  rw [arbiterChoice_eq_none_iff] at nothing ⊢
  rwa [returnSend_alertSlot, returnSend_replies, State.headReady, returnSend_forward]

/-- No discarded frame leaves one behind it that is ready (R194). -/
theorem headReady_dropWhile (l : List Queued) (h : s.forward = l.dropWhile (·.complete)) : s.headReady = false := by
  have first := List.head?_dropWhile_not (·.complete) l
  rw [State.headReady, h]
  cases hl : l.dropWhile (·.complete) with
  | nil => rfl
  | cons q rest => rw [hl] at first; exact Bool.eq_false_iff.mpr (by simpa using first)

/-- What the transmitters do at the end of an act leaves port D's none to make (R192, R194). -/
theorem settle_chosen (s : State) : Chosen (settle s) := by
  by_cases busy : s.txD.isSome = true
  · have chosen : Chosen s := .inl busy
    rw [chosen.settle]
    exact chosen.returnSend
  have free : s.txD = none := by simpa using busy
  cases hu : s.upD with
  | false =>
    rw [settle_down hu free]
    exact Chosen.returnSend (.inr (arbiterChoice_eq_none_iff.mpr ⟨rfl, rfl, headReady_dropWhile s.forward rfl⟩))
  | true =>
    cases hc : arbiterChoice s with
    | none =>
      have chosen : Chosen s := .inr hc
      rw [chosen.settle]
      exact chosen.returnSend
    | some choice =>
      rw [settle_up hu free hc]
      exact Chosen.returnSend (.inl rfl)

/-- The transmitters' choices are complete: no further one is left to make (R190, R192). -/
theorem settle_idempotent (s : State) : settle (settle s) = settle s := by
  rw [(settle_chosen s).settle]
  exact returnSend_returnSend _

/-- Port U's transmitter chooses from its own queue, whatever port D's does (R190). -/
theorem settle_sends (s : State) : (settle s).txU = (returnSend s).txU ∧ (settle s).ret = (returnSend s).ret :=
  returnSend_congr ⟨arbitrate_upU .., arbitrate_txU .., arbitrate_ret ..⟩

/-- A busy transmitter of port U, or an empty Return Queue, leaves both as they are (R190). -/
theorem returnSend_nothing (hu : s.upU = true) (h : s.txU ≠ none ∨ s.ret = []) : returnSend s = s := by
  rw [returnSend, if_pos hu]
  split
  · rename_i free queued
    rcases h with busy | empty
    · exact absurd free busy
    · rw [empty] at queued; cases queued
  · rfl

end

/-- Settles O20, by what each transmitter chooses and that neither has then anything to choose. -/
theorem transmittersTouchOnlyTheirQueues : Obligations.TransmittersTouchOnlyTheirQueues := by
  unfold Obligations.TransmittersTouchOnlyTheirQueues
  intro s
  obtain ⟨line, queue⟩ := settle_sends s
  rw [line, queue]
  refine ⟨?_, settle_idempotent s, fun l rest hu free queued => ?_, fun hu h => ?_, fun hd => ?_⟩
  · rw [← line, ← queue]; exact settle_frame s
  · simp [returnSend, hu, free, queued]
  · rw [returnSend_nothing hu h]; exact ⟨rfl, rfl⟩
  · simp [returnSend, hd]

end Sys2Proof.Machine
end

section
/-! ### The queue of steps that wait (log 2) -/

namespace Sys2Proof.Machine

/-- The step at the front runs on the state with the queue's rest. -/
theorem step_of_pending_cons {i : Instr} {rest : List Instr} {s : State} (h : s.pending = i :: rest) :
    step s = exec i { s with pending := rest } := by
  rw [step, h]

/-- With no step that waits the part idles. -/
theorem step_of_pending_nil {s : State} (h : s.pending = []) : step s = .next s := by
  rw [step, h]

/-- Settles O1, by whether a step waits: the queue's rest put back over the front is the state itself. -/
theorem stepRunsTheFrontCommand : Obligations.StepRunsTheFrontCommand := by
  unfold Obligations.StepRunsTheFrontCommand
  exact ⟨fun i s => step_of_pending_cons (s := { s with pending := i :: s.pending }) rfl, fun _ => step_of_pending_nil⟩

end Sys2Proof.Machine
end

section
/-! ### What every step makes of the tables (R15, R16, R57, R124 to R139) -/

namespace Sys2Proof.Machine

/-- What a command makes of the tables, but for RESET DEVICE: nothing, a write, a commit pending, a commit cancelled, or a mode change
pending (R16, R125, R130, R138). -/
inductive CommandTables (t : TableStore) : TableStore → Prop
  | same : CommandTables t t
  | written {u : TableStore} (open_ : t.commit = none) (write : Written t u) (letter : u.active = t.active) : CommandTables t u
  | committed (k : CommitTarget) (idle : t.copyInFlight = false) (valid : validate t.stagingBank = none) :
      CommandTables t { t with commit := some k }
  | cancelled : CommandTables t { t with commit := none }
  | leaving : CommandTables t { t with modeChange := true }

/-- One act on the tables: a command's, their power-on values, the end of a copy, the swap of a pending commit, or a mode change that is
made or dropped (R3, R131, R134, R139). -/
inductive TablesAct (t : TableStore) : TableStore → Prop
  | command {u : TableStore} (h : CommandTables t u) : TablesAct t u
  | powerOn : TablesAct t .powerOn
  | copied : TablesAct t t.copied
  | swapped (pending : t.commit.isSome) : TablesAct t t.swapped
  | mode (m : DeviceMode) : TablesAct t { t with modeChange := false, deviceMode := m }

/-- Some acts on the tables, one after another. -/
abbrev TablesActs : TableStore → TableStore → Prop := Relation.ReflTransGen TablesAct

/-! #### The Table Store at an open (R31, R128, R139) -/

theorem swapAtOpen_acts (n : CycleNo) (s : State) : TablesActs s.tables (swapAtOpen n s).tables := by
  unfold swapAtOpen
  split
  · exact .refl
  · rename_i k pending
    split
    · rw [swap_tables]
      exact .single (.swapped (Option.isSome_of_eq_some pending))
    · exact .refl

theorem modeChangeAtOpen_acts (n : CycleNo) (s : State) : TablesActs s.tables (modeChangeAtOpen n s).tables := by
  unfold modeChangeAtOpen
  repeat' split
  · rw [submit_tables]
    exact .single (.mode s.tables.deviceMode)
  · rw [submit_tables, abortPendingTest_tables, resetAllRecords_tables]
    exact .single (.mode .bypass)
  · exact .refl

theorem tableStoreOpen_acts (n : CycleNo) (s : State) : TablesActs s.tables (tableStoreOpen n s).tables :=
  (swapAtOpen_acts n s).trans (modeChangeAtOpen_acts n _)

/-! #### Opens and arrivals (R25 to R31) -/

/-- Beside the Table Store's work an open leaves the tables (R31). -/
theorem openCycle_tables (n : CycleNo) (i : Nat) (s : State) :
    (openCycle n i s).tables = (tableStoreOpen n (beginCycle n i s)).tables := by
  rw [openCycle, startTimer_tables, groupsOpen_tables]

theorem openCycle_acts (n : CycleNo) (i : Nat) (s : State) : TablesActs s.tables (openCycle n i s).tables := by
  rw [openCycle_tables]
  exact tableStoreOpen_acts n (beginCycle n i s)

theorem openAhead_acts (n : CycleNo) (i : Nat) (s : State) : TablesActs s.tables (openAhead n i s).tables := by
  unfold openAhead
  dsimp only
  generalize hu : staleRun _ _ _ = u
  have kept : u.tables = s.tables := by
    rw [← hu, staleRun_tables]; dsimp only; split <;> simp
  have opened := openCycle_acts n i u
  rw [kept] at opened
  split
  · exact opened
  · rw [submit_tables]; exact opened

/-- An arrival that opens no cycle leaves the tables (R25, R26, R30). -/
theorem arrive_tables {n : CycleNo} {i : Nat} {s : State} (h : ¬ OpensCycle s n i) : (arrive n i s).2.tables = s.tables := by
  cases verdict : (arrive n i s).1 with
  | false =>
    obtain ⟨-, -, tables, -⟩ := arrive_discarded_frame verdict
    exact tables
  | true =>
    obtain ⟨opened, rfl, next⟩ := (arrive_processed_cases verdict).resolve_right h
    obtain ⟨u, arrived, rfl | ⟨b, rfl⟩⟩ := arrive_inCycle opened next <;> rw [arrived] <;> rfl

theorem arrive_acts (n : CycleNo) (i : Nat) (s : State) : TablesActs s.tables (arrive n i s).2.tables := by
  by_cases opens : OpensCycle s n i
  · rcases opens with ⟨unsynced, rfl⟩ | ⟨synced, isAhead⟩
    · rw [arrive_restored unsynced, submit_tables]
      exact openCycle_acts n 0 s
    · cases state : s.tracker.state with
      | nosync => exact absurd state synced
      | opened =>
        rw [arrive_aheadOpened state isAhead]
        simpa using openAhead_acts n i (closeCycle (.byArrival n i) s)
      | closed =>
        rw [arrive_aheadClosed state isAhead]
        exact openAhead_acts n i s
  · rw [arrive_tables opens]

/-! #### Commands (R16, R125, R130, R138, R169, R182) -/

/-- What every command but RESET DEVICE makes of the tables and the node address. -/
structure CommandChange (s t : State) : Prop where
  tables : CommandTables s.tables t.tables
  address : t.nodeAddr = s.nodeAddr

theorem CommandChange.of_tables {s t : State} (ht : t.tables = s.tables) (ha : t.nodeAddr = s.nodeAddr) : CommandChange s t :=
  ⟨ht ▸ .same, ha⟩

/-- A write that is taken finds every item in range and nothing pending (R16, R124). -/
theorem writeItems_change {r : Nat → Nat → Bool} {l : FieldList} {w : TableStore → TableStore} {s : State}
    (hw : (∀ i ∈ l.items, r i.number i.value = true) → Written s.tables (w s.tables) ∧ (w s.tables).active = s.tables.active) :
    CommandChange s (writeItems r l w s).state := by
  unfold writeItems
  repeat' split
  · exact ⟨.same, rfl⟩
  · exact ⟨.same, rfl⟩
  · exact ⟨.same, rfl⟩
  · rename_i nothing _ inRange
    obtain ⟨write, letter⟩ := hw (firstRefused_none inRange)
    exact ⟨.written (pendingResult_none nothing).1 write letter, rfl⟩

theorem runWriteChannel_change (args : List Byte) (s : State) : CommandChange s (runWriteChannel args s).state := by
  unfold runWriteChannel
  repeat' split
  · exact ⟨.same, rfl⟩
  · rename_i l c items _
    refine writeItems_change fun inRange => ⟨written_writeChannel fun bank => ?_, TableStore.setStaging_active ..⟩
    exact List.foldlRecOn l.items _ (bank.channels c) fun _ he i hi =>
      writeChannelField_inRange he (fieldListOf_fits items i hi) (inRange i hi)
  · exact ⟨.same, rfl⟩

theorem runWriteGroup_change (args : List Byte) (s : State) : CommandChange s (runWriteGroup args s).state := by
  unfold runWriteGroup
  repeat' split
  · exact ⟨.same, rfl⟩
  · rename_i l g items _
    refine writeItems_change fun _ => ⟨written_writeGroup fun bank => ?_, TableStore.setStaging_active ..⟩
    exact List.foldlRecOn (motive := fun e : GroupEntry => e.holdoff ≤ 255) l.items _ (bank.holdoff g) fun _ he i hi =>
      writeGroupField_holdoff he (fieldListOf_fits items i hi)
  · exact ⟨.same, rfl⟩

theorem runWriteCycle_change (args : List Byte) (s : State) : CommandChange s (runWriteCycle args s).state := by
  unfold runWriteCycle
  split
  · rename_i l items
    refine writeItems_change fun inRange => ⟨written_writeCycle fun bank => ?_, TableStore.setStaging_active ..⟩
    exact List.foldlRecOn l.items _ ⟨bank.timeout, bank.lossLimit⟩ fun _ hp i hi =>
      writeCycleField_inRange hp (fieldListOf_fits items i hi) (inRange i hi)
  · exact ⟨.same, rfl⟩

theorem runCommit_change (args : List Byte) (s : State) : CommandChange s (runCommit args s).state := by
  unfold runCommit
  repeat' split
  · exact ⟨.same, rfl⟩
  · exact ⟨.same, rfl⟩
  · exact ⟨.same, rfl⟩
  · exact ⟨.same, rfl⟩
  · exact ⟨.same, rfl⟩
  · rename_i k _ idle _ _ _ valid _ _
    exact ⟨.committed k (Bool.eq_false_iff.mpr idle) valid, rfl⟩

theorem runCancel_change (args : List Byte) (s : State) : CommandChange s (runCancel args s).state := by
  unfold runCancel
  split
  · exact ⟨.same, rfl⟩
  · exact ⟨.cancelled, rfl⟩

theorem runBypass_change (args : List Byte) (s : State) : CommandChange s (runBypass args s).state := by
  unfold runBypass
  repeat' split
  · exact ⟨.same, rfl⟩
  · exact ⟨.same, rfl⟩
  · exact ⟨.same, rfl⟩
  · exact ⟨.same, rfl⟩
  · exact ⟨.leaving, rfl⟩

theorem rearmOver_tables (l : List Grp) (s : State) : (rearmOver l s).1.tables = s.tables := by
  induction l generalizing s with
  | nil => rfl
  | cons g l ih => exact (ih _).trans (tryRearm_tables ..)

theorem tryRearm_nodeAddr (how : RearmHow) (g : Grp) (s : State) : (tryRearm how g s).1.nodeAddr = s.nodeAddr := by
  unfold tryRearm; repeat' split
  all_goals simp

theorem rearmOver_nodeAddr (l : List Grp) (s : State) : (rearmOver l s).1.nodeAddr = s.nodeAddr := by
  induction l generalizing s with
  | nil => rfl
  | cons g l ih => exact (ih _).trans (tryRearm_nodeAddr ..)

theorem runRearm_change (args : List Byte) (s : State) : CommandChange s (runRearm args s).state := by
  unfold runRearm
  split
  · exact ⟨.same, rfl⟩
  · exact .of_tables (tryRearm_tables ..) (tryRearm_nodeAddr ..)
  · dsimp only
    exact .of_tables (rearmOver_tables ..) (rearmOver_nodeAddr ..)

theorem runTrip_change (args : List Byte) (s : State) : CommandChange s (runTrip args s).state := by
  unfold runTrip
  repeat' split
  · exact ⟨.same, rfl⟩
  · exact ⟨.same, rfl⟩
  · dsimp only
    exact .of_tables (tripGroups_tables ..) (tripGroups_nodeAddr ..)

theorem runResetRuntime_change (args : List Byte) (s : State) : CommandChange s (runResetRuntime args s).state := by
  unfold runResetRuntime
  split
  · exact .of_tables (resetRuntimeOp_tables s) (congrArg State.nodeAddr (resetRuntimeOp_frame s) :)
  · exact ⟨.same, rfl⟩

theorem runResetLog_change (args : List Byte) (s : State) : CommandChange s (runResetLog args s).state := by
  unfold runResetLog
  split
  · exact .of_tables (clearLog_tables s) (clearLog_nodeAddr s)
  · exact ⟨.same, rfl⟩

theorem runResetDevice_change (args : List Byte) (s : State) :
    CommandChange s (runResetDevice args s).state ∨ (runResetDevice args s).state = resetDeviceOp s := by
  unfold runResetDevice
  split
  · exact .inr rfl
  · exact .inl ⟨.same, rfl⟩

theorem runReset_change (args : List Byte) (s : State) :
    CommandChange s (runReset args s).state ∨ (runReset args s).state = resetDeviceOp s := by
  unfold runReset
  split
  · exact .inl (runResetRuntime_change args s)
  · exact .inl (runResetLog_change args s)
  · exact runResetDevice_change args s
  · exact .inl ⟨.same, rfl⟩

/-- What each command but RESET makes of the tables: those that are no write and concern no commit and no mode leave them. -/
theorem commandTable_change {code : Byte} {run : List Byte → State → Answer} (h : (code, run) ∈ commandTable) (hc : code ≠ 0x60)
    (args : List Byte) (s : State) : CommandChange s (run args s).state := by
  simp only [commandTable, List.mem_cons, Prod.mk.injEq, List.not_mem_nil, or_false] at h
  rcases h with ⟨-, rfl⟩ | ⟨-, rfl⟩ | ⟨-, rfl⟩ | ⟨-, rfl⟩ | ⟨-, rfl⟩ | ⟨-, rfl⟩ | ⟨-, rfl⟩ | ⟨-, rfl⟩ | ⟨-, rfl⟩ | ⟨-, rfl⟩ |
    ⟨-, rfl⟩ | ⟨-, rfl⟩ | ⟨-, rfl⟩ | ⟨-, rfl⟩ | ⟨-, rfl⟩ | ⟨-, rfl⟩ | ⟨-, rfl⟩ | ⟨-, rfl⟩ | ⟨-, rfl⟩ | ⟨-, rfl⟩ | ⟨h, -⟩
  · unfold runIdentify; split <;> exact ⟨.same, rfl⟩
  · unfold runStatus; split <;> exact ⟨.same, rfl⟩
  · unfold runReadChannel; repeat' split
    all_goals exact ⟨.same, rfl⟩
  · exact runWriteChannel_change args s
  · unfold runReadGroup; repeat' split
    all_goals exact ⟨.same, rfl⟩
  · exact runWriteGroup_change args s
  · unfold runReadCycle; repeat' split
    all_goals exact ⟨.same, rfl⟩
  · exact runWriteCycle_change args s
  · exact runCommit_change args s
  · exact runCancel_change args s
  · exact runBypass_change args s
  · unfold runChannelState; repeat' split
    all_goals exact ⟨.same, rfl⟩
  · unfold runGroupState; repeat' split
    all_goals exact ⟨.same, rfl⟩
  · exact runTrip_change args s
  · exact runRearm_change args s
  · unfold runLogRead; repeat' split
    all_goals exact ⟨.same, rfl⟩
  · unfold runLogAck; repeat' split
    all_goals exact ⟨.same, rfl⟩
  · unfold runLogClear; split <;> exact ⟨.same, rfl⟩
  · unfold runTestCommand; repeat' split
    all_goals exact ⟨.same, rfl⟩
  · unfold runTestResult; repeat' split
    all_goals exact ⟨.same, rfl⟩
  · exact absurd h hc

theorem command_change {code : Byte} {run : List Byte → State → Answer} (h : (code, run) ∈ commandTable) (args : List Byte)
    (s : State) : CommandChange s (run args s).state ∨ (run args s).state = resetDeviceOp s := by
  by_cases reset : code = 0x60
  · have named : ∀ p ∈ commandTable, p.1 = 0x60 → p.2 = runReset := by simp [commandTable]
    rw [show run = runReset from named _ h reset]
    exact runReset_change args s
  · exact .inl (commandTable_change h reset args s)

theorem command_acts {code : Byte} {run : List Byte → State → Answer} (h : (code, run) ∈ commandTable) (args : List Byte)
    (s : State) : TablesActs s.tables (run args s).state.tables := by
  rcases command_change h args s with ⟨change, -⟩ | reset
  · exact .single (.command change)
  · rw [reset]; exact .single .powerOn

/-! #### Every step -/

theorem completeCopy_acts (s : State) : TablesActs s.tables (completeCopy s).tables := by
  unfold completeCopy
  split
  · exact .single .copied
  · exact .refl

/-- That the tables came of earlier ones by acts of the Table Store alone is kept by all that the part does. -/
theorem tablesActs_invariant (t : TableStore) : Invariant fun s => TablesActs t s.tables where
  onCore {s u} h hc := by
    have kept : u.tables = s.tables := (congrArg State.tables hc :)
    rw [kept]; exact h
  onReset := .single .powerOn
  onArrive n i s h := h.trans (arrive_acts n i s)
  onSample x s h := by rw [sampleWork_tables]; exact h
  onClose k s _ h := by rw [closeCycle_tables]; exact h
  onLostCycle {s} _ h := by rw [lostCycle_tables]; exact h
  onLinkLoss {s} _ h := by rw [linkLoss_tables]; exact h
  onTripLine {s} h := by rw [tripLineFall_tables]; exact h
  onCopy {s} h := h.trans (completeCopy_acts s)
  onCommand hm args s h := h.trans (command_acts hm args s)

/-- A step changes the tables by acts of the Table Store alone. -/
theorem step_acts {s t : State} (h : step s = .next t) : TablesActs s.tables t.tables :=
  (tablesActs_invariant s.tables).onStep .refl h

/-- A condition on the tables that every act of the Table Store keeps is kept by any number of them. -/
theorem tablesActs_keep {P : TableStore → Prop} (hP : ∀ {t u : TableStore}, P t → TablesAct t u → P u) {t u : TableStore}
    (ht : P t) (acts : TablesActs t u) : P u := by
  induction acts with
  | refl => exact ht
  | tail _ act ih => exact hP ih act

end Sys2Proof.Machine
end

section
/-! ### Unmarked entries, ranges and validation, through every step (R5, R9, R12, R15, R57, R126) -/

namespace Sys2Proof.Machine

/-- The conditions are on the banks, their roles, the marks and the copy (R15). -/
theorem StagingAgrees.congr {t u : TableStore} (h : StagingAgrees t) (active : u.activeBank = t.activeBank)
    (staging : u.stagingBank = t.stagingBank) (marks : u.marks = t.marks) (copy : u.copyInFlight = t.copyInFlight) :
    StagingAgrees u := by
  obtain ⟨channels, groups, cycle⟩ := h
  constructor <;> rw [active, staging, marks, copy] <;> assumption

theorem stagingAgrees_powerOn : StagingAgrees .powerOn := ⟨fun _ _ _ => rfl, fun _ _ _ => rfl, fun _ _ => rfl⟩

/-- A write marks what it changes, a swap begins a copy, and the copy's end makes the banks equal (R15, R16, R131, R134). -/
theorem StagingAgrees.act {t u : TableStore} (h : StagingAgrees t) (act : TablesAct t u) : StagingAgrees u := by
  cases act with
  | command c =>
    cases c with
    | same => exact h
    | written _ write _ => exact write.agrees h
    | committed k _ _ => exact h.congr rfl rfl rfl rfl
    | cancelled => exact h.congr rfl rfl rfl rfl
    | leaving => exact h.congr rfl rfl rfl rfl
  | powerOn => exact stagingAgrees_powerOn
  | copied => exact copied_agrees t
  | swapped _ => exact ⟨nofun, nofun, nofun⟩
  | mode m => exact h.congr rfl rfl rfl rfl

/-- Settles O57, by what each act of the Table Store leaves of the agreement. -/
theorem unmarkedStagingAgrees : Obligations.UnmarkedStagingAgrees := by
  unfold Obligations.UnmarkedStagingAgrees
  exact fun _ _ agrees step => tablesActs_keep StagingAgrees.act agrees (step_acts step)

/-! #### Ranges (R5, R9, R12) -/

theorem tablesInRange_powerOn : TablesInRange .powerOn := channelsSound_reset.inRange

theorem TablesInRange.act {t u : TableStore} (h : TablesInRange t) (act : TablesAct t u) : TablesInRange u := by
  cases act with
  | command c =>
    cases c with
    | same => exact h
    | written _ write _ => exact write.inRange h
    | committed k _ _ => exact h
    | cancelled => exact h
    | leaving => exact h
  | powerOn => exact tablesInRange_powerOn
  | copied => exact h.copied
  | swapped _ => exact h
  | mode m => exact h

/-! #### Validation (R57, R126) -/

/-- At power-on every channel is OFF, and validation skips OFF entries (R6, R126). -/
theorem validate_default : validate Bank.default = none := by
  refine (validateOver_none ..).mpr fun c _ => (validateEntry_none_iff _).mpr (.inl ?_)
  simp [Bank.default, ChannelEntry.default]

theorem tablesValid_powerOn : TablesValid .powerOn := ⟨validate_default, nofun, nofun⟩

/-- A write finds no commit pending, a commit validates the staging bank, the swap makes a validated bank active, and the copy's end writes
the active bank over the other (R16, R126, R131, R134). -/
theorem TablesValid.act {t u : TableStore} (h : TablesValid t) (act : TablesAct t u) : TablesValid u := by
  obtain ⟨active, staged, copy⟩ := h
  cases act with
  | command c =>
    cases c with
    | same => exact ⟨active, staged, copy⟩
    | written nothing write _ =>
      have none : u.commit = none := write.commit.trans nothing
      exact ⟨by rw [write.active]; exact active, fun pending => absurd pending (by simp [none]), fun _ => none⟩
    | committed k idle valid => exact ⟨active, fun _ => valid, fun copying => absurd copying (by simp [idle])⟩
    | cancelled => exact ⟨active, nofun, fun _ => rfl⟩
    | leaving => exact ⟨active, staged, copy⟩
  | powerOn => exact tablesValid_powerOn
  | copied =>
    have activeBank : t.copied.activeBank = t.activeBank := t.setStaging_activeBank _
    have stagingBank : t.copied.stagingBank = t.activeBank := t.setStaging_stagingBank _
    exact ⟨by rw [activeBank]; exact active, fun _ => by rw [stagingBank]; exact active, nofun⟩
  | swapped pending =>
    obtain ⟨activeBank, -⟩ := t.swapped_banks
    exact ⟨by rw [activeBank]; exact staged pending, nofun, fun _ => rfl⟩
  | mode m => exact ⟨active, staged, copy⟩

/-- Settles O58, by what each act of the Table Store leaves of the ranges and of what has passed validation. -/
theorem tablesStayInRangeAndValid : Obligations.TablesStayInRangeAndValid := by
  unfold Obligations.TablesStayInRangeAndValid
  intro s t inRange valid step
  have acts := step_acts step
  exact ⟨tablesActs_keep TablesInRange.act inRange acts, tablesActs_keep TablesValid.act valid acts⟩

end Sys2Proof.Machine
end

section
/-! ### The part behind a power-on reset (R3, R13, R22, R68, R102, R141, R157, R169, R178, R187 to R192) -/

namespace Sys2Proof.Machine

/-- The part at its power-on values, with the straps and the TRIP_N level that were sampled, and the steps that wait (R108, R169; log 17). -/
def poweredOn (straps : BitVec 6) (level : Bool) (waiting : List Instr) : State :=
  { State.reset with nodeAddr := straps, tripHigh := level, pending := waiting }

/-- At power-on the transmitters have nothing to choose (R187, R192). -/
theorem settle_poweredOn (straps : BitVec 6) (level : Bool) (waiting : List Instr) :
    settle (poweredOn straps level waiting) = poweredOn straps level waiting := rfl

theorem exec_powerOnReset (straps : BitVec 6) (level : Bool) (s : State) :
    exec (.powerOnReset straps level) s = .next (poweredOn straps level s.pending) :=
  congrArg Host.Outcome.next (settle_poweredOn straps level s.pending)

/-- Both banks at power-on are the default bank (R3). -/
theorem powerOn_bank (l : BankLetter) : TableStore.powerOn.bank l = .default := by cases l <;> rfl

/-- Settles O3: the state that is left is the power-on state, and its entries and records are read off it one by one. -/
theorem powerOnResetLeavesThePowerOnState : Obligations.PowerOnResetLeavesThePowerOnState := by
  unfold Obligations.PowerOnResetLeavesThePowerOnState
  intro straps level s
  have channel : ∀ c : Chan, TableStore.powerOn.marks.channels[c] = false ∧ Tracker.powerOn.seen[c] = false ∧
      State.reset.repeats[c] = false ∧ State.reset.channel c = .fresh .idle := fun c => by
    simp [TableStore.powerOn, Marks.clear, Tracker.powerOn, clearMap, State.reset, State.channel]
  have group : ∀ g : Grp, TableStore.powerOn.marks.groups[g] = false ∧ State.reset.group g = .armed := fun g => by
    simp [TableStore.powerOn, Marks.clear, State.reset, State.group]
  have bank : ∀ l : BankLetter, (∀ c : Chan, (TableStore.powerOn.bank l).channels[c] = .default) ∧
      (∀ g : Grp, (TableStore.powerOn.bank l).groups[g] = .default) ∧ (TableStore.powerOn.bank l).cycle = .default := fun l => by
    simp [powerOn_bank, Bank.default]
  refine ⟨poweredOn straps level s.pending, exec_powerOnReset straps level s, ?_⟩
  iterate 30 refine ⟨rfl, ?_⟩
  exact ⟨channel, group, rfl, bank⟩

/-- What is read behind the ports after a RESET DEVICE is what is read there at power-on (R184). -/
theorem settle_afterReset_core (c : Command) (rest : List Command) (s : State) :
    (settle (afterReset c rest s)).core = State.reset.core :=
  (settle_core _).trans (placeReply_core ..)

/-- Settles O4: both resets leave the default bank under both letters. -/
theorem cycleParametersTakeTheirDefaults : Obligations.CycleParametersTakeTheirDefaults := by
  unfold Obligations.CycleParametersTakeTheirDefaults
  refine ⟨fun straps level s => ⟨_, exec_powerOnReset straps level s, fun l => congrArg Bank.cycle (powerOn_bank l)⟩,
    fun s c rest hh ha => ⟨_, exec_resetDevice hh ha, fun l => ?_⟩⟩
  have tables : (settle (afterReset c rest s)).tables = .powerOn := (congrArg State.tables (settle_afterReset_core c rest s) :)
  rw [tables]
  exact congrArg Bank.cycle (powerOn_bank l)

/-- Settles O5: nothing is queued, received, tripped, logged or pending, the link is not in sync, and the tables and the runtime records
are at their defaults. -/
theorem resetMeetsEveryInvariant : Obligations.ResetMeetsEveryInvariant := by
  unfold Obligations.ResetMeetsEveryInvariant
  have queues : QueuesBounded State.reset := ⟨Nat.zero_le _, Nat.zero_le _, Nat.zero_le _, Nat.zero_le _, Nat.zero_le _⟩
  have forward : ForwardSettled State.reset := ⟨fun _ hq => absurd hq List.not_mem_nil, fun _ hf => absurd hf (Option.not_mem_none _)⟩
  have receivers : ReceiversSound State.reset := .of_ports (Receiver.quiet_wellFormed false) (Receiver.quiet_wellFormed false)
  obtain ⟨groups, pin⟩ := safeState_reset
  obtain ⟨timer, loss⟩ : TrackSound State.reset := .of_nosync rfl rfl (Nat.zero_le _) (Nat.zero_le _)
  exact ⟨queues, forward, receivers, pin, groups, logSound_invariant.onReset, pendingSound_reset, stagingAgrees_powerOn,
    tablesInRange_powerOn, tablesValid_powerOn, timer, loss, channelsSound_reset⟩

end Sys2Proof.Machine
end

section
/-! ### A STALE trigger whole (R42, R75, R77) -/

namespace Sys2Proof.Machine

/-- The channels a trigger evaluates: checked, expected in its cycle, not seen, and with STALE among their classes (R7, R8, R75). -/
theorem takesStale_iff (s : State) (n : CycleNo) (seen : Vector Bool 96) (c : Chan) :
    takesStale s n seen c = true ↔ s.tables.deviceMode = .active ∧ (s.entry c).mode ≠ .off ∧
      n.toNat % (s.entry c).period = (s.entry c).phase ∧ seen[c] = false ∧ (s.entry c).classes.stale = true := by
  simp [takesStale, State.checked, ChannelEntry.expected, and_assoc]

/-- The evaluations of a trigger over some channels are taken one after another (R75). -/
theorem staleOver_eq_foldl (n : CycleNo) (seen : Vector Bool 96) (l : List Chan) (s : State) :
    staleOver n seen l s = l.foldl (fun u c => if takesStale u n seen c = true then evaluate c n .staleOnly none u else u) s := by
  induction l generalizing s with
  | nil => rfl
  | cons c l ih => exact ih _

/-- A trigger leaves the values that a sample alone writes (R77). -/
theorem staleTrigger_values (n : CycleNo) (seen : Vector Bool 96) (s : State) (c : Chan) :
    ((staleTrigger n seen s).channel c).lastGood = (s.channel c).lastGood ∧
      ((staleTrigger n seen s).channel c).rateBase = (s.channel c).rateBase ∧
      ((staleTrigger n seen s).channel c).inWarn = (s.channel c).inWarn := by
  rw [staleTrigger_channel]
  split
  · exact evaluatedRecord_values ..
  · exact ⟨rfl, rfl, rfl⟩

/-- Settles O34, by which channels take the trigger: whether one takes it no evaluation of another changes. -/
theorem staleTriggerEvaluatesTheMissingChannels : Obligations.StaleTriggerEvaluatesTheMissingChannels := by
  unfold Obligations.StaleTriggerEvaluatesTheMissingChannels
  intro n seen s missing t
  have taking : ∀ u c, missing u c ↔ takesStale u n seen c = true := fun u c => (takesStale_iff u n seen c).symm
  refine ⟨?_, staleTrigger_frame n seen s, fun c => ⟨?_, staleTrigger_values n seen s c⟩⟩
  · simp only [taking]
    exact staleOver_eq_foldl n seen allChannels s
  · simp only [taking]
    refine (staleTrigger_channel n seen s c).trans (if_congr Iff.rfl ?_ rfl)
    exact ((evaluate_channel ..).trans (if_pos rfl)).symm

end Sys2Proof.Machine
end

section
/-! ### The commands that read (R18, R19, R83, R121, R147, R176, R177) -/

namespace Sys2Proof.Machine

theorem grpOf_byte (g : Grp) : grpOf (BitVec.ofNat 8 g.val : Byte).toNat = some g := by
  rw [byte1_read (g.isLt.trans (by decide)), grpOf, dif_pos g.isLt]

section
variable (u : State)

/-! #### Reads of the two roles: ACTIVE always, STAGING unless a copy is in flight (R18, R19, R124, R179) -/

theorem runReadChannel_active (k : Chan) :
    runReadChannel [0, BitVec.ofNat 8 k.val] u = ⟨u, .ok, .channelEntry u.tables.active (u.entry k) none⟩ := by
  rw [runReadChannel, chanOf_byte]; rfl

theorem runReadChannel_staging (k : Chan) :
    runReadChannel [1, BitVec.ofNat 8 k.val] u =
      if u.tables.copyInFlight = true then refuse u .busy
      else ⟨u, .ok, .channelEntry u.tables.active.other u.tables.stagingBank.channels[k] (some u.tables.marks.channels[k])⟩ := by
  rw [runReadChannel, chanOf_byte]; rfl

theorem runReadGroup_active (g : Grp) :
    runReadGroup [0, BitVec.ofNat 8 g.val] u = ⟨u, .ok, .groupEntry u.tables.active (u.groupEntry g) none⟩ := by
  rw [runReadGroup, grpOf_byte]; rfl

theorem runReadGroup_staging (g : Grp) :
    runReadGroup [1, BitVec.ofNat 8 g.val] u =
      if u.tables.copyInFlight = true then refuse u .busy
      else ⟨u, .ok, .groupEntry u.tables.active.other u.tables.stagingBank.groups[g] (some u.tables.marks.groups[g])⟩ := by
  rw [runReadGroup, grpOf_byte]; rfl

theorem runReadCycle_active : runReadCycle [0] u = ⟨u, .ok, .cycleParams u.tables.active u.params none⟩ := rfl

theorem runReadCycle_staging :
    runReadCycle [1] u =
      if u.tables.copyInFlight = true then refuse u .busy
      else ⟨u, .ok, .cycleParams u.tables.active.other u.tables.stagingBank.cycle (some u.tables.marks.cycle)⟩ := rfl

/-! #### The other reading commands (R83, R121, R147, R177) -/

theorem runChannelState_named (k : Chan) :
    runChannelState [BitVec.ofNat 8 k.val] u = ⟨u, .ok, .channelRecord (u.channel k)⟩ := by
  rw [runChannelState, chanOf_byte]

theorem runGroupState_named (g : Grp) :
    runGroupState [BitVec.ofNat 8 g.val] u = ⟨u, .ok, .groupRecord (u.group g) (readinessOf u g)⟩ := by
  rw [runGroupState, grpOf_byte]

theorem runLogRead_named {n : Byte} (h : 1 ≤ n.toNat ∧ n.toNat ≤ 4) :
    runLogRead [n] u = ⟨u, .ok, .logRecords u.log.records.length u.log.lost (u.log.records.take n.toNat)⟩ := if_pos h

/-- A snapshot's group states are those of the group records (R177). -/
theorem snapshotOf_group (g : Grp) : (snapshotOf u).groups[g] = (u.group g).state := by
  simp [snapshotOf, State.group]

end

theorem BankLetter.other_eq (l : BankLetter) : l.other = if l = .a then .b else .a := by cases l <;> rfl

/-- Settles O40, command by command: what the command at the head answers, and that it leaves the state. -/
theorem readingCommandsAnswerWithTheState : Obligations.ReadingCommandsAnswerWithTheState := by
  unfold Obligations.ReadingCommandsAnswerWithTheState
  intro s c rest k g other
  have letter : s.tables.active.other = other := s.tables.active.other_eq
  rw [← letter]
  refine ⟨fun hh ha => ?identify, fun hh ha => ⟨snapshotOf (taken s rest), ?status, ?_⟩, fun hh ha => ?channelState,
    fun hh ha => ?groupState, fun n hh ha hl hu => ?logRead, fun hh => ⟨?_, ?_, ?_⟩, fun hh => ⟨?_, ?_, ?_⟩, fun hh => ⟨?_, ?_, ?_⟩⟩
  case identify => exact takeHead_answers hh ha (run := runIdentify) rfl
  case status => exact takeHead_answers hh ha (run := runStatus) rfl
  · exact ⟨rfl, rfl, rfl, rfl, rfl, rfl, rfl, rfl, snapshotOf_group (taken s rest), rfl, rfl, rfl, rfl⟩
  case channelState => exact takeHead_answers hh ha (runChannelState_named (taken s rest) k)
  case groupState =>
    refine (takeHead_answers hh ha (runGroupState_named (taken s rest) g)).trans ?_
    have readiness : readinessOf (taken s rest) g = readinessOf s g := rfl
    rw [readiness, readinessOf]
    cases state : (s.group g).state with
    | armed => rw [if_pos rfl]; rfl
    | tripped => rw [if_neg nofun]; cases failedCondition s g <;> rfl
  case logRead => exact takeHead_answers hh ha (runLogRead_named (taken s rest) ⟨hl, hu⟩)
  · exact fun ha => takeHead_answers hh ha (runReadChannel_active (taken s rest) k)
  · exact fun ha idle => takeHead_answers hh ha ((runReadChannel_staging (taken s rest) k).trans (if_neg (Bool.eq_false_iff.mp idle)))
  · exact fun ha copying => takeHead_answers hh ha ((runReadChannel_staging (taken s rest) k).trans (if_pos copying))
  · exact fun ha => takeHead_answers hh ha (runReadGroup_active (taken s rest) g)
  · exact fun ha idle => takeHead_answers hh ha ((runReadGroup_staging (taken s rest) g).trans (if_neg (Bool.eq_false_iff.mp idle)))
  · exact fun ha copying => takeHead_answers hh ha ((runReadGroup_staging (taken s rest) g).trans (if_pos copying))
  · exact fun ha => takeHead_answers hh ha (runReadCycle_active (taken s rest))
  · exact fun ha idle => takeHead_answers hh ha ((runReadCycle_staging (taken s rest)).trans (if_neg (Bool.eq_false_iff.mp idle)))
  · exact fun ha copying => takeHead_answers hh ha ((runReadCycle_staging (taken s rest)).trans (if_pos copying))

end Sys2Proof.Machine
end

section
/-! ### Field lists read back (R16, R175; log 13) -/

namespace Sys2Proof.Machine

/-! #### Numbers in bytes (R196) -/

theorem bigEndian_byte1 {n : Nat} (h : n < 256) : bigEndian (byte1 n) = n := by
  simp only [bigEndian, byte1, List.foldl_cons, List.foldl_nil, BitVec.toNat_ofNat]
  omega

theorem bigEndian_byte2 {n : Nat} (h : n < 65536) : bigEndian (byte2 n) = n := by
  simp only [bigEndian, byte2, List.foldl_cons, List.foldl_nil, BitVec.toNat_ofNat]
  omega

theorem bigEndian_byte3 {n : Nat} (h : n < 16777216) : bigEndian (byte3 n) = n := by
  simp only [bigEndian, byte3, List.foldl_cons, List.foldl_nil, BitVec.toNat_ofNat]
  omega

/-! #### Reading item by item (R175) -/

/-- A number of a field and its value's bytes, as the item they are read back as (R16). -/
def readBack (n : Nat) (v : List Byte) : Item := ⟨n, bigEndian v⟩

/-- The items of a list that stand behind others. -/
def FieldList.behind (front : List Item) (l : FieldList) : FieldList := { l with items := front ++ l.items }

/-- An item whose bytes are all there is read, and the reading goes on behind it. -/
theorem readItems_item {width : Nat → Option Nat} {n : Nat} {v : List Byte} (hn : n < 256) (hw : width n = some v.length) (k : Nat)
    (rest : List Byte) :
    readItems width (k + 1) (BitVec.ofNat 8 n :: (v ++ rest)) = (readItems width k rest).map (.behind [readBack n v]) := by
  have whole : ¬ (v ++ rest).length < v.length := by simp
  simp only [readItems, byte1_read hn, hw, if_neg whole, List.take_left', List.drop_left']
  rfl

/-- A number that names no field ends the reading (log 13). -/
theorem readItems_unknown {width : Nat → Option Nat} {n : Nat} (hn : n < 256) (hw : width n = none) (k : Nat) (rest : List Byte) :
    readItems width (k + 1) (BitVec.ofNat 8 n :: rest) = some ⟨[], some n⟩ := by
  simp only [readItems, byte1_read hn, hw]

/-- A list that ends within an item is no list (R16). -/
theorem readItems_cut {width : Nat → Option Nat} {n w : Nat} {v : List Byte} (hn : n < 256) (hw : width n = some w)
    (hv : v.length < w) (k : Nat) : readItems width (k + 1) (BitVec.ofNat 8 n :: v) = none := by
  simp only [readItems, byte1_read hn, hw, if_pos hv]

/-- The items of the fields 1 to `limit` of an entry: each its number and a value at the field's width (R16, R175). -/
structure ItemsOf (width : Nat → Option Nat) (limit : Nat) (item : Nat → List Byte) : Prop where
  head : ∀ n, item n = BitVec.ofNat 8 n :: (item n).tail
  width : ∀ n, 1 ≤ n → n ≤ limit → width n = some (item n).tail.length
  byte : limit < 256

namespace ItemsOf

variable {width : Nat → Option Nat} {limit : Nat} {item : Nat → List Byte} (items : ItemsOf width limit item)
include items

/-- The reading of some items goes on behind them, with more left to read than there are bytes. -/
theorem readItems_append {ns : List Nat} (hns : ∀ n ∈ ns, 1 ≤ n ∧ n ≤ limit) (rest : List Byte) {fuel : Nat}
    (hf : (ns.flatMap item ++ rest).length < fuel) :
    ∃ k, rest.length < k ∧ readItems width fuel (ns.flatMap item ++ rest) =
      (readItems width k rest).map (.behind (ns.map fun n => readBack n (item n).tail)) := by
  induction ns generalizing fuel with
  | nil => exact ⟨fuel, hf, (congrFun Option.map_id _).symm⟩
  | cons n ns ih =>
    obtain ⟨⟨low, high⟩, hns⟩ := List.forall_mem_cons.mp hns
    have split : (n :: ns).flatMap item ++ rest = BitVec.ofNat 8 n :: ((item n).tail ++ (ns.flatMap item ++ rest)) := by
      rw [List.flatMap_cons, List.append_assoc, items.head n]
      rfl
    rw [split] at hf ⊢
    obtain _ | fuel := fuel
    · cases hf
    obtain ⟨k, hk, behind⟩ := ih hns (fuel := fuel) (by simp only [List.length_cons, List.length_append] at hf ⊢; omega)
    refine ⟨k, hk, ?_⟩
    rw [readItems_item (lt_of_le_of_lt high items.byte) (items.width n low high), behind, Option.map_map]
    rfl

/-- The items of some fields and what is read behind them, as one list. -/
theorem readItems_args {ns : List Nat} (hns : ∀ n ∈ ns, 1 ≤ n ∧ n ≤ limit) {rest : List Byte} {o : Option FieldList}
    (ho : ∀ k, rest.length < k → readItems width k rest = o) :
    readItems width ((ns.flatMap item ++ rest).length + 1) (ns.flatMap item ++ rest) =
      o.map (.behind (ns.map fun n => readBack n (item n).tail)) := by
  obtain ⟨k, hk, behind⟩ := items.readItems_append hns rest (Nat.lt_succ_self _)
  rw [behind, ho k hk]

theorem readItems_only {ns : List Nat} (hns : ∀ n ∈ ns, 1 ≤ n ∧ n ≤ limit) {k : Nat} (hk : (ns.flatMap item).length < k) :
    readItems width k (ns.flatMap item) = some ⟨ns.map fun n => readBack n (item n).tail, none⟩ := by
  obtain ⟨j, hj, behind⟩ := items.readItems_append hns [] (by simpa using hk)
  obtain _ | j := j
  · cases hj
  · simpa [readItems, FieldList.behind] using behind

end ItemsOf

/-! #### Whole lists (R16) -/

theorem FieldNumbers.length {limit : Nat} {ns : List Nat} (h : FieldNumbers limit ns) : ns.length ≤ limit := by
  obtain ⟨nodup, range⟩ := h
  have within : ns.toFinset ⊆ Finset.Icc 1 limit := fun n hn => Finset.mem_Icc.mpr (range n (List.mem_toFinset.mp hn))
  simpa [List.toFinset_card_of_nodup nodup] using Finset.card_le_card within

/-- The numbers of items read back are those they were written with. -/
theorem map_number_readBack (v : Nat → List Byte) (ns : List Nat) : (ns.map fun n => readBack n (v n)).map Item.number = ns := by
  simp [readBack, Function.comp_def]

theorem fieldListOf_some {width : Nat → Option Nat} {limit : Nat} {args : List Byte} {l : FieldList}
    (h : readItems width (args.length + 1) args = some l) (nodup : (l.items.map Item.number).Nodup) (fits : l.length ≤ limit) :
    fieldListOf width limit args = some l := by
  rw [fieldListOf, h]
  exact if_pos ⟨nodup, fits⟩

theorem fieldListOf_none {width : Nat → Option Nat} {limit : Nat} {args : List Byte}
    (h : readItems width (args.length + 1) args = none) : fieldListOf width limit args = none := by
  rw [fieldListOf, h]

namespace ItemsOf

variable {width : Nat → Option Nat} {limit : Nat} {item : Nat → List Byte} (items : ItemsOf width limit item) {ns ms : List Nat}
  {n : Nat} {v after : List Byte}
include items

/-- The items of some fields, none twice, are the whole list in their order. -/
theorem fieldListOf (h : FieldNumbers limit ns) :
    fieldListOf width limit (ns.flatMap item) = some ⟨ns.map fun n => readBack n (item n).tail, none⟩ := by
  refine fieldListOf_some (items.readItems_only h.2 (Nat.lt_succ_self _)) ?_ ?_
  · rw [map_number_readBack]; exact h.1
  · simpa [FieldList.length] using h.length

theorem fieldListOf_twice (hns : ∀ n ∈ ns, 1 ≤ n ∧ n ≤ limit) (h : ¬ ns.Nodup) :
    Machine.fieldListOf width limit (ns.flatMap item) = none := by
  rw [Machine.fieldListOf, items.readItems_only hns (Nat.lt_succ_self _)]
  refine if_neg fun ⟨nodup, _⟩ => h ?_
  rwa [map_number_readBack] at nodup

/-- An item of any bytes at its field's width stands in the list with their value. -/
theorem fieldListOf_around (h : FieldNumbers limit (ns ++ n :: ms)) (hv : width n = some v.length) :
    Machine.fieldListOf width limit (itemsAround (ns.flatMap item) n v (ms.flatMap item)) =
      some ⟨(ns.map fun n => readBack n (item n).tail) ++ readBack n v :: ms.map fun n => readBack n (item n).tail, none⟩ := by
  obtain ⟨nodup, range⟩ := h
  have inFront : ∀ m ∈ ns, 1 ≤ m ∧ m ≤ limit := fun m hm => range m (List.mem_append_left _ hm)
  have behind : ∀ m ∈ ms, 1 ≤ m ∧ m ≤ limit := fun m hm => range m (List.mem_append_right _ (List.mem_cons_of_mem _ hm))
  have byte : n < 256 := lt_of_le_of_lt (range n (by simp)).2 items.byte
  refine fieldListOf_some ((items.readItems_args inFront (o := some ⟨readBack n v :: ms.map fun n => readBack n (item n).tail, none⟩)
    fun k hk => ?_).trans rfl) ?_ ?_
  · obtain _ | k := k
    · cases hk
    · rw [readItems_item byte hv, items.readItems_only behind (by simp only [List.length_cons, List.length_append] at hk; omega)]
      rfl
  · simpa [readBack, Function.comp_def] using nodup
  · simpa [FieldList.length] using FieldNumbers.length ⟨nodup, range⟩

theorem fieldListOf_unknown (h : FieldNumbers limit ns) (room : ns.length < limit) (hn : n < 256) (hw : width n = none) :
    Machine.fieldListOf width limit (itemsAround (ns.flatMap item) n [] after) =
      some ⟨ns.map fun n => readBack n (item n).tail, some n⟩ := by
  refine fieldListOf_some ((items.readItems_args h.2 (o := some ⟨[], some n⟩) fun k hk => ?_).trans ?_) ?_ ?_
  · obtain _ | k := k
    · cases hk
    · exact readItems_unknown hn hw k after
  · simp [FieldList.behind]
  · rw [map_number_readBack]; exact h.1
  · simpa [FieldList.length] using room

theorem fieldListOf_cut (hns : ∀ n ∈ ns, 1 ≤ n ∧ n ≤ limit) (hn : n < 256) {w : Nat} (hw : width n = some w) (hv : v.length < w) :
    Machine.fieldListOf width limit (itemsAround (ns.flatMap item) n v []) = none := by
  refine fieldListOf_none ((items.readItems_args hns (o := none) fun k hk => ?_).trans rfl)
  obtain _ | k := k
  · cases hk
  · exact readItems_cut hn hw (by simpa using hv) k

end ItemsOf

/-! #### The items in range, and the first that is not (R16, R17) -/

theorem firstRefused_inRange {r : Nat → Nat → Bool} {l : List Item} (h : ∀ i ∈ l, r i.number i.value = true) (unknown : Option Nat) :
    firstRefused r ⟨l, unknown⟩ = unknown := by
  have none : l.find? (fun i => !r i.number i.value) = none := List.find?_eq_none.mpr fun i hi => by simp [h i hi]
  simp only [firstRefused, none]

theorem firstRefused_first {r : Nat → Nat → Bool} {l l' : List Item} {i : Item} (h : ∀ i ∈ l, r i.number i.value = true)
    (hi : r i.number i.value = false) (unknown : Option Nat) : firstRefused r ⟨l ++ i :: l', unknown⟩ = some i.number := by
  have none : l.find? (fun i => !r i.number i.value) = none := List.find?_eq_none.mpr fun i hi => by simp [h i hi]
  simp only [firstRefused, List.find?_append, none, List.find?_cons, hi]
  rfl

end Sys2Proof.Machine
end

section
/-! ### The fields of the three entries in their wire form, written back (R5, R9, R12, R16, R17, R175) -/

namespace Sys2Proof.Machine

/-! #### Sets as flags (R197) -/

theorem flagAt_le (b : Bool) (i : Nat) : flagAt b i ≤ 2 ^ i := by cases b <;> simp [flagAt]

theorem ClassSet.toNat_lt (k : ClassSet) : k.toNat < 64 := by
  have := flagAt_le k.high 0; have := flagAt_le k.low 1; have := flagAt_le k.rate 2
  have := flagAt_le k.qual 3; have := flagAt_le k.stale 4; have := flagAt_le k.warn 5
  simp only [ClassSet.toNat]
  omega

theorem ClassSet.ofNat_toNat (k : ClassSet) : ClassSet.ofNat k.toNat = k := by
  simp only [ClassSet.ofNat, ClassSet.toNat, testBit_flags]
  rfl

theorem KindSet.toNat_lt (k : KindSet) : k.toNat < 1024 := by
  have := flagAt_le k.fault 0; have := flagAt_le k.recover 1; have := flagAt_le k.warn 2; have := flagAt_le k.trip 3
  have := flagAt_le k.rearm 4; have := flagAt_le k.link 5; have := flagAt_le k.seq 6; have := flagAt_le k.dup 7
  have := flagAt_le k.commit 8; have := flagAt_le k.mode 9
  simp only [KindSet.toNat]
  omega

theorem KindSet.ofNat_toNat (k : KindSet) : KindSet.ofNat k.toNat = k := by
  have bits : k.toNat = Nat.bit k.fault (Nat.bit k.recover (Nat.bit k.warn (Nat.bit k.trip (Nat.bit k.rearm (Nat.bit k.link
      (Nat.bit k.seq (Nat.bit k.dup (Nat.bit k.commit (Nat.bit k.mode 0))))))))) := by
    simp only [KindSet.toNat, flagAt_succ, flagAt_zero, Nat.bit_val]
    omega
  rw [bits]
  simp [KindSet.ofNat, Nat.testBit_bit_succ]

/-! #### Coded values (R5, R197) -/

theorem modeOf_code (m : ChannelMode) : modeOf m.code = m := by cases m <;> rfl

theorem ChannelMode.code_le (m : ChannelMode) : m.code ≤ 2 := by cases m <;> decide

theorem reactionOf_code (r : Reaction) : reactionOf r.code = r := by cases r <;> rfl

theorem Reaction.code_le (r : Reaction) : r.code ≤ 2 := by cases r <;> decide

theorem grpOf_groupCode (g : Option Grp) : grpOf (groupCode g) = g := by
  cases g with
  | none => rfl
  | some g => exact dif_pos g.isLt

theorem groupCode_le (g : Option Grp) : groupCode g ≤ 7 ∨ groupCode g = 255 := by
  cases g with
  | none => exact .inr rfl
  | some g => exact .inl (Nat.le_of_lt_succ g.isLt)

theorem yesNo_read (b : Bool) : (bigEndian (yesNo b) == 1) = b := by cases b <;> rfl

theorem yesNo_le (b : Bool) : bigEndian (yesNo b) ≤ 1 := by cases b <;> decide

/-! #### An entry written field by field (R16) -/

/-- The items of the fields 1 to `limit` carry an entry: each is accepted, and writing it makes its field the entry's and leaves the others,
`mix` being an entry with the fields of some numbers so written. -/
structure CarriedBy {E : Type} (limit : Nat) (item : Nat → List Byte) (inRange : Nat → Nat → Bool) (write : E → Item → E)
    (mix : E → List Nat → E) : Prop where
  accepted : ∀ n, 1 ≤ n → n ≤ limit → inRange n (bigEndian (item n).tail) = true
  one : ∀ old n, 1 ≤ n → n ≤ limit → write old (readBack n (item n).tail) = mix old [n]
  none : ∀ old, mix old [] = old
  cons : ∀ old n ns, mix (mix old [n]) ns = mix old (n :: ns)

section
variable {E : Type} {limit : Nat} {item : Nat → List Byte} {inRange : Nat → Nat → Bool} {write : E → Item → E} {mix : E → List Nat → E}
  {ns : List Nat}

theorem CarriedBy.accepts (carried : CarriedBy limit item inRange write mix) (hns : ∀ n ∈ ns, 1 ≤ n ∧ n ≤ limit) :
    ∀ i ∈ ns.map fun n => readBack n (item n).tail, inRange i.number i.value = true := by
  intro i hi
  obtain ⟨n, hn, rfl⟩ := List.mem_map.mp hi
  exact carried.accepted n (hns n hn).1 (hns n hn).2

/-- Writing fields one after another writes them all. -/
theorem CarriedBy.writes (carried : CarriedBy limit item inRange write mix) (hns : ∀ n ∈ ns, 1 ≤ n ∧ n ≤ limit) (old : E) :
    (ns.map fun n => readBack n (item n).tail).foldl write old = mix old ns := by
  induction ns generalizing old with
  | nil => exact (carried.none old).symm
  | cons n ns ih =>
    obtain ⟨⟨low, high⟩, hns⟩ := List.forall_mem_cons.mp hns
    rw [List.map_cons, List.foldl_cons, carried.one old n low high, ih hns, carried.cons]

end

/-- The choice between two values by a list's first number and then by the rest of it. -/
theorem ite_mem_cons {α : Type} (k n : Nat) (ns : List Nat) (a b : α) :
    (if k ∈ ns then a else if k ∈ [n] then a else b) = if k ∈ n :: ns then a else b := by
  by_cases first : k = n <;> by_cases rest : k ∈ ns <;> simp [first, rest]

/-! #### The channel entry (R5) -/

theorem ChannelEntry.itemsOf (e : ChannelEntry) : ItemsOf channelWidth 20 e.item where
  head _ := rfl
  width n low high := by interval_cases n <;> rfl
  byte := by decide

theorem ChannelEntry.InRange.period_le {e : ChannelEntry} (h : e.InRange) : e.period ≤ 16 := by
  have := h.period
  simp only [List.mem_cons, List.not_mem_nil, or_false] at this
  omega

/-- The number that a field's wire form carries (R5, R175). -/
def ChannelEntry.wire (e : ChannelEntry) : Nat → Nat
  | 1 => e.mode.code
  | 2 => e.period
  | 3 => e.phase
  | 4 => e.gain.toNat
  | 5 => e.offset.toNat
  | 6 => e.lowLimit.toNat
  | 7 => e.highLimit.toNat
  | 8 => e.warnLow.toNat
  | 9 => e.warnHigh.toNat
  | 10 => e.rateLimit
  | 11 => e.classes.toNat
  | 12 => bigEndian (yesNo e.satIsFault)
  | 13 => e.window
  | 14 => e.threshold
  | 15 => e.recovery
  | 16 => e.reaction.code
  | 17 => bigEndian (yesNo e.holdSuspect)
  | 18 => bigEndian (yesNo e.trip)
  | 19 => groupCode e.group
  | 20 => e.safeValue.toNat
  | _ => 0

/-- A field in its range survives its wire form (R5, R175). -/
theorem ChannelEntry.InRange.bigEndian_item {e : ChannelEntry} (h : e.InRange) {n : Nat} (low : 1 ≤ n) (high : n ≤ 20) :
    bigEndian (e.item n).tail = e.wire n := by
  have period := h.period_le
  obtain ⟨-, phase, rateLimit, window, threshold, recovery⟩ := h
  have mode := e.mode.code_le
  have reaction := e.reaction.code_le
  have classes := e.classes.toNat_lt
  have group := groupCode_le e.group
  interval_cases n
  iterate 3 exact bigEndian_byte1 (by omega)
  · exact bigEndian_byte2 e.gain.isLt
  · exact bigEndian_byte3 e.offset.isLt
  · exact bigEndian_byte3 e.lowLimit.isLt
  · exact bigEndian_byte3 e.highLimit.isLt
  · exact bigEndian_byte3 e.warnLow.isLt
  · exact bigEndian_byte3 e.warnHigh.isLt
  · exact bigEndian_byte3 (by omega)
  · exact bigEndian_byte1 (by omega)
  · rfl
  iterate 4 exact bigEndian_byte1 (by omega)
  iterate 2 rfl
  · exact bigEndian_byte1 (by omega)
  · exact bigEndian_byte3 e.safeValue.isLt

/-- An entry in range is written in values that R17 accepts. -/
theorem ChannelEntry.InRange.wire_inRange {e : ChannelEntry} (h : e.InRange) {n : Nat} (low : 1 ≤ n) (high : n ≤ 20) :
    channelInRange n (e.wire n) = true := by
  obtain ⟨period, phase, rateLimit, window, threshold, recovery⟩ := h
  interval_cases n <;> simp only [channelInRange, ChannelEntry.wire]
  · simpa using e.mode.code_le
  · simpa [or_assoc] using period
  · simpa using phase
  iterate 6 rfl
  · simpa using rateLimit
  · simpa using e.classes.toNat_lt
  · simpa using yesNo_le e.satIsFault
  · simpa using window
  · simpa using threshold
  · simpa using recovery.1
  · simpa using e.reaction.code_le
  · simpa using yesNo_le e.holdSuspect
  · simpa using yesNo_le e.trip
  · simpa using groupCode_le e.group
  · rfl

/-- A field written is the new entry's, and the others are the old one's (R16). -/
theorem writeChannelField_wire (old new : ChannelEntry) {n : Nat} (low : 1 ≤ n) (high : n ≤ 20) :
    writeChannelField old ⟨n, new.wire n⟩ = old.mix new [n] := by
  interval_cases n <;> simp [writeChannelField, ChannelEntry.wire, ChannelEntry.mix, modeOf_code, reactionOf_code, grpOf_groupCode,
    ClassSet.ofNat_toNat, yesNo_read]

theorem ChannelEntry.InRange.carriedBy {e : ChannelEntry} (h : e.InRange) :
    CarriedBy 20 e.item channelInRange writeChannelField (fun old ns => old.mix e ns) where
  accepted n low high := by rw [h.bigEndian_item low high]; exact h.wire_inRange low high
  one old n low high := by rw [readBack, h.bigEndian_item low high]; exact writeChannelField_wire old e low high
  none old := by simp [ChannelEntry.mix]
  cons old n ns := by simp only [ChannelEntry.mix, ite_mem_cons]

/-! #### The group entry (R9) -/

theorem GroupEntry.itemsOf (e : GroupEntry) : ItemsOf groupWidth 4 e.item where
  head _ := rfl
  width n low high := by interval_cases n <;> rfl
  byte := by decide

theorem GroupEntry.carriedBy {e : GroupEntry} (h : e.holdoff ≤ 255) :
    CarriedBy 4 e.item groupInRange writeGroupField (fun old ns => old.mix e ns) where
  accepted n low high := by
    interval_cases n
    · exact decide_eq_true (yesNo_le e.autoRearm)
    · rfl
    · exact decide_eq_true (yesNo_le e.pinBound)
    · exact decide_eq_true (yesNo_le e.linkBound)
  one old n low high := by
    have holdoff : bigEndian (byte1 e.holdoff) = e.holdoff := bigEndian_byte1 (by omega)
    interval_cases n <;> simp [writeGroupField, readBack, GroupEntry.item, GroupEntry.mix, yesNo_read, holdoff]
  none old := by simp [GroupEntry.mix]
  cons old n ns := by simp only [GroupEntry.mix, ite_mem_cons]

/-! #### The cycle parameters (R12) -/

theorem CycleParams.itemsOf (p : CycleParams) : ItemsOf cycleWidth 3 p.item where
  head _ := rfl
  width n low high := by interval_cases n <;> rfl
  byte := by decide

theorem CycleParams.InRange.carriedBy {p : CycleParams} (h : p.InRange) :
    CarriedBy 3 p.item cycleInRange writeCycleField (fun old ns => old.mix p ns) := by
  obtain ⟨timeout, lossLimit⟩ := h
  have kinds := p.alertKinds.toNat_lt
  have timeoutRead : bigEndian (byte2 p.cycleTimeout) = p.cycleTimeout := bigEndian_byte2 (by omega)
  have lossRead : bigEndian (byte1 p.lossLimit) = p.lossLimit := bigEndian_byte1 (by omega)
  have kindsRead : bigEndian (byte2 p.alertKinds.toNat) = p.alertKinds.toNat := bigEndian_byte2 (by omega)
  refine ⟨fun n low high => ?_, fun old n low high => ?_, fun old => ?_, fun old n ns => ?_⟩
  · interval_cases n
    · exact decide_eq_true (timeoutRead ▸ timeout.1)
    · exact decide_eq_true (lossRead ▸ lossLimit)
    · exact decide_eq_true (kindsRead ▸ kinds)
  · interval_cases n <;>
      simp [writeCycleField, readBack, CycleParams.item, CycleParams.mix, timeoutRead, lossRead, kindsRead, KindSet.ofNat_toNat]
  · simp [CycleParams.mix]
  · simp only [CycleParams.mix, ite_mem_cons]

end Sys2Proof.Machine
end

section
/-! ### The three writes: what they store, and how they are refused (R14, R16, R17, R124, R175) -/

namespace Sys2Proof.Machine

/-! #### The steps of a write (R16, R124) -/

section
variable {r : Nat → Nat → Bool} {l : FieldList} {w : TableStore → TableStore} {s : State}

theorem writeItems_busy (h : s.tables.copyInFlight = true) : writeItems r l w s = refuse s .busy := if_pos h

theorem writeItems_pending (hf : s.tables.copyInFlight = false) {what : Result} (hp : pendingResult s.tables = some what) :
    writeItems r l w s = refuse s .pending what := by
  simp [writeItems, hf, hp]

theorem writeItems_refused (h : OpenToWrites s) {n : Nat} (hr : firstRefused r l = some n) :
    writeItems r l w s = refuse s .badArg (.field n) := by
  obtain ⟨copy, commit, mode⟩ := h
  simp [writeItems, copy, pendingResult_idle commit mode, hr]

end

/-- A row that writes an entry by a field list: a list that is read is judged and written, and one that is not is refused (R16). -/
structure WriteRow (s : State) (c : Command) (rest : List Command) (i : Instr) (width : Nat → Option Nat) (limit : Nat)
    (inRange : Nat → Nat → Bool) (args : List Byte) (write : FieldList → TableStore → TableStore) : Prop where
  listed : ∀ {l a}, fieldListOf width limit args = some l → writeItems inRange l (write l) (taken s rest) = a →
    exec i s = answers c a.status a.result a.state
  unlisted : fieldListOf width limit args = none → exec i s = answers c .badArg .empty (taken s rest)

section
variable {s : State} {c : Command} {rest : List Command} {args : List Byte}

theorem writeRow_channel (hh : AtHead s c rest 0x11) {k : Chan} (ha : c.args = BitVec.ofNat 8 k.val :: args) :
    WriteRow s c rest .writeChannel channelWidth 20 channelInRange args
      fun l t => t.writeChannel k (l.items.foldl writeChannelField t.stagingBank.channels[k]) where
  listed hl hw := takeHead_answers hh ha (by simp only [runWriteChannel, hl, chanOf_byte, hw])
  unlisted hl := takeHead_answers hh ha (by simp only [runWriteChannel, hl]; rfl)

theorem writeRow_group (hh : AtHead s c rest 0x13) {g : Grp} (ha : c.args = BitVec.ofNat 8 g.val :: args) :
    WriteRow s c rest .writeGroup groupWidth 4 groupInRange args
      fun l t => t.writeGroup g (l.items.foldl writeGroupField t.stagingBank.groups[g]) where
  listed hl hw := takeHead_answers hh ha (by simp only [runWriteGroup, hl, grpOf_byte, hw])
  unlisted hl := takeHead_answers hh ha (by simp only [runWriteGroup, hl]; rfl)

theorem writeRow_cycle (hh : AtHead s c rest 0x15) (ha : c.args = args) :
    WriteRow s c rest .writeCycle cycleWidth 3 cycleInRange args
      fun l t => t.writeCycle (l.items.foldl writeCycleField t.stagingBank.cycle) where
  listed hl hw := takeHead_answers hh ha (by simp only [runWriteCycle, hl, hw])
  unlisted hl := takeHead_answers hh ha (by simp only [runWriteCycle, hl]; rfl)

end

/-! #### What a row that writes answers to each list (R16, R17, R124, R175) -/

namespace WriteRow

variable {s : State} {c : Command} {rest : List Command} {i : Instr} {width : Nat → Option Nat} {limit : Nat}
  {inRange : Nat → Nat → Bool} {args : List Byte} {store : FieldList → TableStore → TableStore} {item : Nat → List Byte} {E : Type}
  {write : E → Item → E} {mix : E → List Nat → E} {ns ms : List Nat} {n : Nat} {v after : List Byte}
  (row : WriteRow s c rest i width limit inRange args store) (items : ItemsOf width limit item)
include row items

/-- The fields of the numbers listed are written to an open bank. -/
theorem stores (carried : CarriedBy limit item inRange write mix) (ho : OpenToWrites s) (hns : FieldNumbers limit ns)
    (ha : args = ns.flatMap item) :
    exec i s = answers c .ok .empty
      { s with cmdFifo := rest, tables := store ⟨ns.map fun n => readBack n (item n).tail, none⟩ s.tables } :=
  row.listed (by rw [ha]; exact items.fieldListOf hns)
    (writeItems_open ho.copy ho.commit ho.mode (firstRefused_inRange (carried.accepts hns.2) none))

/-- A bank that is not open refuses the write before any value is judged. -/
theorem closed (hns : FieldNumbers limit ns) (ha : args = ns.flatMap item) : ClosedToWrites s c rest i := by
  have hl := items.fieldListOf hns
  rw [← ha] at hl
  refine ⟨fun copy => row.listed hl (writeItems_busy (s := taken s rest) copy), fun t copy commit => ?_, fun copy commit mode => ?_⟩
  · exact row.listed hl (writeItems_pending (s := taken s rest) copy (pendingResult_commit commit))
  · exact row.listed hl (writeItems_pending (s := taken s rest) copy (pendingResult_mode commit mode))

/-- The first value out of its range is refused by its field's number. -/
theorem refused (carried : CarriedBy limit item inRange write mix) (ho : OpenToWrites s) (hns : FieldNumbers limit (ns ++ n :: ms))
    (hv : width n = some v.length ∧ inRange n (bigEndian v) = false)
    (ha : args = itemsAround (ns.flatMap item) n v (ms.flatMap item)) :
    exec i s = answers c .badArg (.field n) (taken s rest) := by
  have inFront : ∀ m ∈ ns, 1 ≤ m ∧ m ≤ limit := fun m hm => hns.2 m (List.mem_append_left _ hm)
  have first := firstRefused_first (l' := ms.map fun n => readBack n (item n).tail) (i := readBack n v) (carried.accepts inFront) hv.2 none
  exact row.listed (by rw [ha]; exact items.fieldListOf_around hns hv.1) (writeItems_refused (s := taken s rest) ⟨ho.copy, ho.commit, ho.mode⟩ first)

/-- A number that names no field is refused by itself, the items before it in range. -/
theorem unknown (carried : CarriedBy limit item inRange write mix) (ho : OpenToWrites s) (hns : FieldNumbers limit ns)
    (room : ns.length < limit) (hw : width n = none) (byte : n < 256) (ha : args = itemsAround (ns.flatMap item) n [] after) :
    exec i s = answers c .badArg (.field n) (taken s rest) :=
  row.listed (a := refuse (taken s rest) .badArg (.field n)) (by rw [ha]; exact items.fieldListOf_unknown hns room byte hw)
    (writeItems_refused (s := taken s rest) ⟨ho.copy, ho.commit, ho.mode⟩ (firstRefused_inRange (carried.accepts hns.2) (some n)))

theorem twice (hns : ∀ m ∈ ns, 1 ≤ m ∧ m ≤ limit) (h : ¬ ns.Nodup) (ha : args = ns.flatMap item) :
    exec i s = answers c .badArg .empty (taken s rest) :=
  row.unlisted (by rw [ha]; exact items.fieldListOf_twice hns h)

theorem cut (hns : ∀ m ∈ ns, 1 ≤ m ∧ m ≤ limit) (high : n ≤ limit) {w : Nat} (hw : width n = some w) (hv : v.length < w)
    (ha : args = itemsAround (ns.flatMap item) n v []) : exec i s = answers c .badArg .empty (taken s rest) :=
  row.unlisted (by rw [ha]; exact items.fieldListOf_cut hns (lt_of_le_of_lt high items.byte) hw hv)

end WriteRow

/-! #### What is stored (R14, R16) -/

/-- A staging bank and marks written, and the rest of an open Table Store as it was. -/
theorem stored_staging {s : State} (h : OpenToWrites s) (b : Bank) (m : Marks) :
    let t : TableStore := { s.tables.setStaging b with marks := m }
    t.activeBank = s.tables.activeBank ∧ t.active = s.tables.active ∧ t.deviceMode = s.tables.deviceMode ∧
      t.commit = none ∧ t.modeChange = false ∧ t.copyInFlight = false ∧ t.stagingBank = b ∧ t.marks = m := by
  obtain ⟨-, commit, mode, copy, device⟩ := s.tables.setStaging_rest b
  exact ⟨TableStore.setStaging_activeBank .., TableStore.setStaging_active .., device, commit.trans h.commit, mode.trans h.mode,
    copy.trans h.copy, TableStore.setStaging_stagingBank .., rfl⟩

/-- Settles O42, by what is read back of the list and by what writing it item by item makes of the staging entry. -/
theorem writeChannelStoresTheFieldsItLists : Obligations.WriteChannelStoresTheFieldsItLists := by
  unfold Obligations.WriteChannelStoresTheFieldsItLists
  intro s c rest k e ns hh he hns ha copy commit mode
  have bankOpen : OpenToWrites s := ⟨copy, commit, mode⟩
  refine ⟨_, (writeRow_channel hh ha).stores e.itemsOf he.carriedBy bankOpen hns rfl, ?_⟩
  dsimp only
  rw [he.carriedBy.writes hns.2]
  exact stored_staging bankOpen _ _

/-- Settles O43, as O42 for the other two entries. -/
theorem writeGroupAndCycleStoreTheFieldsTheyList : Obligations.WriteGroupAndCycleStoreTheFieldsTheyList := by
  unfold Obligations.WriteGroupAndCycleStoreTheFieldsTheyList
  intro s c rest ns copy commit mode
  have bankOpen : OpenToWrites s := ⟨copy, commit, mode⟩
  refine ⟨fun g e hh he hns ha => ?_, fun p hh tenOrMore timeout oneOrMore loss hns ha => ?_⟩
  · have carried := GroupEntry.carriedBy he
    refine ⟨_, (writeRow_group hh ha).stores e.itemsOf carried bankOpen hns rfl, ?_⟩
    dsimp only
    rw [carried.writes hns.2]
    exact stored_staging bankOpen _ _
  · have carried := CycleParams.InRange.carriedBy (p := p) ⟨⟨tenOrMore, timeout⟩, oneOrMore, loss⟩
    refine ⟨_, (writeRow_cycle hh ha).stores p.itemsOf carried bankOpen hns rfl, ?_⟩
    dsimp only
    rw [carried.writes hns.2]
    exact stored_staging bankOpen _ _

/-! #### The values and numbers refused (R17, R175) -/

theorem channelWidth_named {n : Nat} (low : 1 ≤ n) (high : n ≤ 20) : channelWidth n = some (channelFieldWidth n) := by
  interval_cases n <;> rfl

theorem channelWidth_unknown {n : Nat} (h : n = 0 ∨ 20 < n) : channelWidth n = none := by
  unfold channelWidth
  rw [if_neg (by omega), if_neg (by omega), if_neg (by omega)]

theorem groupWidth_named {n : Nat} (low : 1 ≤ n) (high : n ≤ 4) : groupWidth n = some 1 := if_pos ⟨low, high⟩

theorem groupWidth_unknown {n : Nat} (h : n = 0 ∨ 4 < n) : groupWidth n = none := if_neg (by omega)

theorem cycleWidth_named {n : Nat} (low : 1 ≤ n) (high : n ≤ 3) : cycleWidth n = some (cycleFieldWidth n) := by
  interval_cases n <;> rfl

theorem cycleWidth_unknown {n : Nat} (h : n = 0 ∨ 3 < n) : cycleWidth n = none := by
  unfold cycleWidth
  rw [if_neg (by omega), if_neg (by omega)]

theorem bigEndian_one (b : Byte) : bigEndian [b] = b.toNat := by simp [bigEndian]

theorem bigEndian_two (a b : Byte) : bigEndian [a, b] = a.toNat * 256 + b.toNat := by simp [bigEndian]

/-- A refused value of a channel entry's field stands at the field's width, out of its range. -/
theorem RefusedChannelValue.judged {n : Nat} {v : List Byte} (h : RefusedChannelValue n v) :
    channelWidth n = some v.length ∧ channelInRange n (bigEndian v) = false := by
  rcases h with ⟨b, rfl, h⟩ | ⟨a, b, c, rfl, rfl, high⟩
  · have byte := b.isLt
    rw [bigEndian_one]
    generalize b.toNat = x at h byte
    simp only [List.mem_cons, List.not_mem_nil, or_false, not_or] at h
    rcases h with ⟨rfl | rfl, h⟩ | ⟨rfl, h⟩ | ⟨rfl, h⟩ | ⟨rfl, h⟩ | ⟨rfl | rfl | rfl, h⟩ | ⟨rfl | rfl, h⟩ | ⟨rfl, h⟩ | ⟨rfl, h⟩
    all_goals exact ⟨rfl, by simp [channelInRange]; omega⟩
  · refine ⟨rfl, decide_eq_false ?_⟩
    simp only [bigEndian, List.foldl_cons, List.foldl_nil]
    omega

theorem RefusedGroupValue.judged {n : Nat} {v : List Byte} (h : RefusedGroupValue n v) :
    groupWidth n = some v.length ∧ groupInRange n (bigEndian v) = false := by
  obtain ⟨b, rfl, field, high⟩ := h
  rw [bigEndian_one]
  simp only [List.mem_cons, List.not_mem_nil, or_false] at field
  rcases field with rfl | rfl | rfl
  all_goals exact ⟨rfl, decide_eq_false (by omega)⟩

theorem RefusedCycleValue.judged {n : Nat} {v : List Byte} (h : RefusedCycleValue n v) :
    cycleWidth n = some v.length ∧ cycleInRange n (bigEndian v) = false := by
  rcases h with ⟨b, rfl, rfl, h⟩ | ⟨a, b, rfl, ⟨rfl, low⟩ | ⟨rfl, high⟩⟩
  · rw [bigEndian_one]
    exact ⟨rfl, decide_eq_false (by omega)⟩
  · rw [bigEndian_two]
    exact ⟨rfl, decide_eq_false (by omega)⟩
  · rw [bigEndian_two]
    exact ⟨rfl, decide_eq_false (by omega)⟩

/-! #### No subject (R16) -/

theorem runWriteChannel_badArg {args : List Byte} (h : args = [] ∨ ∃ b l, args = b :: l ∧ 96 ≤ b.toNat) (u : State) :
    runWriteChannel args u = refuse u .badArg := by
  rcases h with rfl | ⟨b, l, rfl, beyond⟩
  · rfl
  · rw [runWriteChannel, chanOf_beyond beyond]
    cases fieldListOf channelWidth 20 l <;> rfl

theorem runWriteGroup_badArg {args : List Byte} (h : args = [] ∨ ∃ b l, args = b :: l ∧ 8 ≤ b.toNat) (u : State) :
    runWriteGroup args u = refuse u .badArg := by
  rcases h with rfl | ⟨b, l, rfl, beyond⟩
  · rfl
  · rw [runWriteGroup, grpOf_beyond beyond]
    cases fieldListOf groupWidth 4 l <;> rfl

/-- Settles O44: each write is a row that writes, and each of its lists is read and judged as such rows read and judge theirs. -/
theorem writesAreRefusedWhileTheBankIsClosed : Obligations.WritesAreRefusedWhileTheBankIsClosed := by
  unfold Obligations.WritesAreRefusedWhileTheBankIsClosed
  intro s c rest ns ms n v after
  refine ⟨fun hh k e => ?channel, fun hh ha => takeHead_answers hh rfl (runWriteChannel_badArg ha _), fun hh g e => ?group,
    fun hh ha => takeHead_answers hh rfl (runWriteGroup_badArg ha _), fun hh p => ?cycle⟩
  case channel =>
    have items := e.itemsOf
    refine ⟨fun hns ha => (writeRow_channel hh ha).closed items hns rfl,
      fun ho he hns hv ha => (writeRow_channel hh ha).refused items he.carriedBy ho hns hv.judged rfl,
      fun ho he hns room hn byte ha => (writeRow_channel hh ha).unknown items he.carriedBy ho hns room (channelWidth_unknown hn) byte rfl,
      fun hns => ⟨fun twice ha => (writeRow_channel hh ha).twice items hns twice rfl, fun low high short ha => ?_⟩⟩
    exact (writeRow_channel hh ha).cut items hns high (channelWidth_named low high) short rfl
  case group =>
    have items := e.itemsOf
    refine ⟨fun hns ha => (writeRow_group hh ha).closed items hns rfl,
      fun ho he hns hv ha => (writeRow_group hh ha).refused items (GroupEntry.carriedBy he) ho hns hv.judged rfl,
      fun ho he hns room hn byte ha =>
        (writeRow_group hh ha).unknown items (GroupEntry.carriedBy he) ho hns room (groupWidth_unknown hn) byte rfl,
      fun hns => ⟨fun twice ha => (writeRow_group hh ha).twice items hns twice rfl, fun low high ha => ?_⟩⟩
    exact (writeRow_group hh ha).cut items hns high (groupWidth_named low high) (v := []) Nat.one_pos rfl
  case cycle =>
    have items := p.itemsOf
    have carriedBy : 10 ≤ p.cycleTimeout ∧ p.cycleTimeout ≤ 65535 ∧ 1 ≤ p.lossLimit ∧ p.lossLimit ≤ 16 →
        CarriedBy 3 p.item cycleInRange writeCycleField (fun old ns => old.mix p ns) :=
      fun ⟨tenOrMore, timeout, loss⟩ => CycleParams.InRange.carriedBy ⟨⟨tenOrMore, timeout⟩, loss⟩
    refine ⟨fun hns ha => (writeRow_cycle hh ha).closed items hns rfl,
      fun ho fits hns hv ha => (writeRow_cycle hh ha).refused items (carriedBy fits) ho hns hv.judged rfl,
      fun ho fits hns room hn byte ha =>
        (writeRow_cycle hh ha).unknown items (carriedBy fits) ho hns room (cycleWidth_unknown hn) byte rfl,
      fun hns => ⟨fun twice ha => (writeRow_cycle hh ha).twice items hns twice rfl, fun low high short ha => ?_⟩⟩
    exact (writeRow_cycle hh ha).cut items hns high (cycleWidth_named low high) short rfl

end Sys2Proof.Machine
end

section
/-! ### The node address, the active bank and the device mode (R3, R4, R135, R137, R169, R184) -/

namespace Sys2Proof.Machine

/-- The node address, the active bank with its letter, and the device mode stand. -/
structure Standing (s t : State) : Prop where
  address : t.nodeAddr = s.nodeAddr
  letter : t.tables.active = s.tables.active
  bank : t.tables.activeBank = s.tables.activeBank
  mode : t.tables.deviceMode = s.tables.deviceMode

theorem Standing.refl (s : State) : Standing s s := ⟨rfl, rfl, rfl, rfl⟩

theorem Standing.trans {s t u : State} (h : Standing s t) (h' : Standing t u) : Standing s u :=
  ⟨h'.address.trans h.address, h'.letter.trans h.letter, h'.bank.trans h.bank, h'.mode.trans h.mode⟩

theorem Standing.of_tables {s t : State} (ha : t.nodeAddr = s.nodeAddr) (ht : t.tables = s.tables) : Standing s t :=
  ⟨ha, congrArg _ ht, congrArg _ ht, congrArg _ ht⟩

theorem Standing.of_core {s t : State} (ha : t.nodeAddr = s.nodeAddr) (hc : t.core = s.core) : Standing s t :=
  .of_tables ha (congrArg State.tables hc :)

/-! #### The ports and queues (R168 to R172, R187, R188, R193 to R195) -/

theorem setRx_standing (s : State) (p : Port) (r : Receiver) : Standing s (s.setRx p r) :=
  .of_core (by cases p <;> rfl) (setRx_core ..)

theorem settle_standing (s : State) : Standing s (settle s) := .of_core (settle_nodeAddr s) (settle_core s)

theorem portUpOp_standing (p : Port) (s : State) : Standing s (portUpOp p s) :=
  .of_core (by cases p <;> rfl) (portUpOp_core p s)

theorem portDDownOp_standing (s : State) : Standing s (portDDownOp s) :=
  .of_core (by unfold portDDownOp; split <;> rfl) (portDDownOp_core s)

theorem transmitEnd_standing (p : Port) (s : State) : Standing s (transmitEnd p s) := by
  refine .of_core ?_ (transmitEnd_core p s)
  unfold transmitEnd
  repeat' split
  all_goals rfl

theorem countCheckError_standing (p : Port) (s : State) : Standing s (countCheckError p s) :=
  .of_core (by cases p <;> rfl) (countCheckError_core p s)

theorem countFormatError_standing (p : Port) (s : State) : Standing s (countFormatError p s) :=
  .of_core (by cases p <;> rfl) (countFormatError_core p s)

theorem enterReturn_standing (l : List Byte) (s : State) : Standing s (enterReturn l s) :=
  .of_core (by unfold enterReturn; split <;> rfl) (enterReturn_core l s)

theorem offerCommand_standing (c : Command) (s : State) : Standing s (offerCommand c s) :=
  .of_core (by unfold offerCommand; split <;> rfl) (offerCommand_core c s)

theorem offerBroadcast_standing (c : Command) (s : State) : Standing s (offerBroadcast c s) := by
  unfold offerBroadcast
  split
  · exact offerCommand_standing c s
  · exact .of_tables rfl rfl

theorem placeReply_standing (c : Command) (status : Status) (result : Result) (s : State) :
    Standing s (placeReply c status result s) :=
  .of_core (by unfold placeReply; split <;> rfl) (placeReply_core ..)

theorem sortCommand_standing (payload whole : List Byte) (s : State) : Standing s (sortCommand payload whole s) := by
  unfold sortCommand
  repeat' split
  · exact (enterReturn_standing whole s).trans (offerBroadcast_standing ..)
  · exact offerCommand_standing ..
  · exact enterReturn_standing whole s
  · exact .refl s

theorem receiveD_standing (f : Arriving) (ending : FrameEnd) (s : State) : Standing s (receiveD f ending s) := by
  unfold receiveD
  repeat' split
  · exact countCheckError_standing .d s
  · exact countFormatError_standing .d s
  · exact sortCommand_standing ..
  · exact enterReturn_standing ..

theorem lineEventD_standing (e : RxEvent) (s : State) : Standing s (lineEventD e s) := by
  cases e with
  | comesUp => exact portUpOp_standing .d s
  | goesDown => exact portDDownOp_standing s
  | frame f ending => exact receiveD_standing f ending s
  | overlong => exact countFormatError_standing .d s

theorem takeLineD_standing (line : List Pattern) (s : State) : Standing s (takeLineD line s) := by
  rw [takeLineD, takeLine_eq]
  split
  · exact setRx_standing ..
  · exact (setRx_standing ..).trans (lineEventD_standing ..)

theorem causeD_standing (c : DownCause) (s : State) : Standing s (causeD c s) := by
  cases c with
  | lossOfSignal => exact portDDownOp_standing s
  | violations line => exact takeLineD_standing line s

theorem transmitEndD_standing (down : Option DownCause) (s : State) : Standing s (transmitEndD down s) := by
  cases down with
  | none => exact transmitEnd_standing .d s
  | some c => exact (transmitEnd_standing .d s).trans (causeD_standing c _)

/-! #### The tracker, the timer, the trip line and the bank copy (R24 to R39, R46 to R49, R108, R134) -/

theorem portUDownOp_standing (s : State) : Standing s (portUDownOp s) := by
  unfold portUDownOp
  dsimp only
  repeat' split
  · exact .of_tables rfl rfl
  · exact .of_tables (linkLoss_nodeAddr _) (linkLoss_tables _)
  · exact .refl s

theorem timerExpiry_standing (s : State) : Standing s (timerExpiry s) := by
  unfold timerExpiry
  repeat' split
  · exact .refl s
  · exact .refl s
  · exact .of_tables (closeCycle_nodeAddr ..) (closeCycle_tables ..)
  · exact .of_tables (lostCycle_nodeAddr s) (lostCycle_tables s)

theorem tripLineFall_standing (s : State) : Standing s (tripLineFall s) :=
  .of_tables (tripLineFall_nodeAddr s) (tripLineFall_tables s)

/-- A bank copy reaches the staging bank alone (R134). -/
theorem completeCopy_standing (s : State) : Standing s (completeCopy s) := by
  unfold completeCopy
  split
  · exact ⟨rfl, s.tables.setStaging_active _, s.tables.setStaging_activeBank _, s.tables.setStaging_deviceMode _⟩
  · exact .refl s

theorem openAhead_nodeAddr (n : CycleNo) (i : Nat) (s : State) : (openAhead n i s).nodeAddr = s.nodeAddr := by
  unfold openAhead
  dsimp only
  repeat' split
  all_goals simp

theorem arrive_nodeAddr (n : CycleNo) (i : Nat) (s : State) : (arrive n i s).2.nodeAddr = s.nodeAddr := by
  unfold arrive arriveUnsynced arriveSame discardWith setIndex
  repeat' split
  all_goals simp [openAhead_nodeAddr]

theorem sampleWork_standing (x : SampleEntry) (s : State) : Standing s (sampleWork x s).1 := by
  refine .of_tables ?_ (sampleWork_tables x s)
  unfold sampleWork
  repeat' split
  · rfl
  · rfl
  · rfl
  · exact noteDuplicate_nodeAddr ..
  · rw [judge_frame]; rfl

theorem completeFrames_standing (s : State) : Standing s (completeFrames s) :=
  .of_tables (completeFrames_nodeAddr s) (completeFrames_tables s)

theorem segmentOver_standing (s : State) : Standing s (segmentOver s) :=
  .of_tables (segmentOver_nodeAddr s) (segmentOver_tables s)

theorem workDone_standing (left : List SampleEntry) (s : State) : Standing s (workDone left s) := by
  refine Standing.trans ?_ (settle_standing _)
  split
  · exact completeFrames_standing s
  · exact .refl s

theorem closeOnLast_standing (last : Bool) (s : State) : Standing s (closeOnLast last s) := by
  unfold closeOnLast
  split
  · exact .of_tables (closeCycle_nodeAddr ..) (closeCycle_tables ..)
  · exact .refl s

/-! #### The commands (R16, R171, R182, R184) -/

/-- A command's change of the tables is one of the staging bank, or of what is pending (R16, R124). -/
theorem CommandTables.active {t u : TableStore} (h : CommandTables t u) :
    u.active = t.active ∧ u.activeBank = t.activeBank ∧ u.deviceMode = t.deviceMode := by
  cases h with
  | written _ write letter => exact ⟨letter, write.active, write.deviceMode⟩
  | same | committed | cancelled | leaving => exact ⟨rfl, rfl, rfl⟩

theorem CommandChange.standing {s t : State} (h : CommandChange s t) : Standing s t := by
  obtain ⟨letter, bank, mode⟩ := h.tables.active
  exact ⟨h.address, letter, bank, mode⟩

theorem command_nodeAddr {code : Byte} {run : List Byte → State → Answer} (h : (code, run) ∈ commandTable) (args : List Byte)
    (s : State) : (run args s).state.nodeAddr = s.nodeAddr := by
  rcases command_change h args s with change | reset
  · exact change.address
  · rw [reset]; rfl

/-- Every row of a management command takes the head by some condition on it, and but for RESET DEVICE it carries out no reset of the
part. -/
theorem commandRows_change {i : Instr} (h : i ∈ commandRows) :
    ∃ is run, (∀ s, exec i s = act (takeHead is run s)) ∧
      ∀ args s, CommandChange s (run args s).state ∨ i = .resetDevice ∧ (run args s).state = resetDeviceOp s := by
  have named {run : List Byte → State → Answer} (hm : ∃ p ∈ commandTable, p.1 ≠ 0x60 ∧ p.2 = run) (args : List Byte)
      (s : State) : CommandChange s (run args s).state := by
    obtain ⟨p, hp, hc, rfl⟩ := hm
    exact commandTable_change hp hc args s
  simp only [commandRows, List.mem_cons, List.not_mem_nil, or_false] at h
  rcases h with rfl | rfl | rfl | rfl | rfl | rfl | rfl | rfl | rfl | rfl | rfl | rfl | rfl | rfl | rfl | rfl | rfl | rfl | rfl | rfl |
    rfl | rfl | rfl | rfl
  iterate 20 exact ⟨_, _, fun _ => rfl, fun args s => .inl (named (by simp [commandTable]) args s)⟩
  · exact ⟨_, _, fun _ => rfl, fun args s => .inl (runResetRuntime_change args s)⟩
  · exact ⟨_, _, fun _ => rfl, fun args s => .inl (runResetLog_change args s)⟩
  · exact ⟨_, _, fun _ => rfl, fun args s => (runResetDevice_change args s).imp_right fun h => ⟨rfl, h⟩⟩
  · exact ⟨_, _, fun _ => rfl, fun _ _ => .inl ⟨.same, rfl⟩⟩

/-! #### A condition that Standing states share, through the taking of a command and of a SEG -/

theorem betweenActs_keeps {P : State → Prop} {s : State} {l : List Between}
    (hl : ∀ b ∈ l, ∀ {u : State}, P u → P (betweenAct b u)) (hs : P s) : P (betweenActs l s) :=
  List.foldlRecOn l _ hs fun _ hu b hb => hl b hb hu

section
variable {P : State → Prop} (stands : ∀ {s t : State}, Standing s t → P s → P t) {s : State}
include stands

theorem takeHead_keeps (is : Command → Bool) {run : List Byte → State → Answer}
    (hrun : ∀ args {u : State}, P u → P (run args u).state) (hs : P s) : P (takeHead is run s) := by
  unfold takeHead
  repeat' split
  · exact hs
  · exact stands (placeReply_standing ..) (hrun _ (stands (s := s) (.of_tables rfl rfl) hs))
  · exact hs

theorem takeLineU_keeps {on : RxEvent → State → State} (hon : ∀ e {u : State}, P u → P (on e u)) (l : List Symbol) (hs : P s) :
    P (takeLine .u on l s) := by
  rw [takeLine_eq]
  split
  · exact stands (setRx_standing ..) hs
  · exact hon _ (stands (setRx_standing ..) hs)

/-- A frame of port U keeps the condition where a SEG that finds a place does. -/
theorem receiveU_keeps {onSegment : Segment → State → State} {f : Arriving} {ending : FrameEnd}
    (hseg : ∀ p, receive f ending = .good 0x01 p → P (onSegment (readSegment p) s)) (hs : P s) :
    P (receiveU onSegment f ending s) := by
  unfold receiveU
  split
  · exact stands (countCheckError_standing .u s) hs
  · exact stands (countFormatError_standing .u s) hs
  · rename_i good
    repeat' split
    · rename_i kind
      exact hseg _ (kind ▸ good)
    · exact stands (s := s) (.of_tables rfl rfl) hs
    · exact stands (s := s) (.of_tables rfl rfl) hs

theorem lineEventU_keeps {onSegment : Segment → State → State} (hseg : ∀ g, P s → P (onSegment g s)) (e : RxEvent) (hs : P s) :
    P (lineEventU onSegment e s) := by
  cases e with
  | comesUp => exact stands (portUpOp_standing .u s) hs
  | goesDown => exact stands (portUDownOp_standing s) hs
  | frame f ending => exact receiveU_keeps stands (fun _ _ => hseg _ hs) hs
  | overlong => exact stands (countFormatError_standing .u s) hs

theorem workSamples_keeps (g : Segment) (out left : List SampleEntry) {between : List (List Between)}
    (hb : ∀ l ∈ between, ∀ b ∈ l, ∀ {u : State}, P u → P (betweenAct b u)) (hs : P s) :
    P (workSamples g out left between s) := by
  induction left generalizing out between s with
  | nil => exact List.foldlRecOn between _ hs fun _ hu l hl => betweenActs_keeps (hb l hl) hu
  | cons x left ih =>
    have before : P (betweenActs (between.headD []) s) := by
      cases between with
      | nil => exact hs
      | cons l between => exact betweenActs_keeps (hb l (List.mem_cons_self ..)) hs
    have worked := stands (sampleWork_standing x _) before
    refine ih _ (fun l hl => hb l (List.mem_of_mem_tail hl)) (stands ?_ worked)
    exact Standing.trans (.of_tables (rewriteEntries_nodeAddr ..) (rewriteEntries_tables ..)) (workDone_standing left _)

theorem takeSegment_keeps {g : Segment} {between : List (List Between)}
    (hb : ∀ l ∈ between, ∀ b ∈ l, ∀ {u : State}, P u → P (betweenAct b u))
    (arrived : P (arrive g.cycle g.index (enterSegment g s)).2) : P (takeSegment between g s) := by
  unfold takeSegment segmentArrival
  dsimp only
  repeat' split
  · have worked := workSamples_keeps stands g [] g.entries hb (stands (workDone_standing g.entries _) arrived)
    exact stands ((closeOnLast_standing g.last _).trans (segmentOver_standing _)) worked
  · exact stands (.of_tables (dropIncomplete_nodeAddr _) (dropIncomplete_tables _)) arrived
  · exact stands ((completeFrames_standing _).trans (segmentOver_standing _)) arrived

end

/-! #### Events between samples (R65) -/

theorem takeBeside_standing (line : List Pattern) (s : State) : Standing s (takeBeside line s) := by
  unfold takeBeside
  split
  · exact .refl s
  · exact takeLineU_keeps (P := Standing s) (fun h hs => hs.trans h)
      (fun e _ hu => lineEventU_keeps (fun h hs => hs.trans h) (fun _ h => h) e hu) _ (.refl s)

/-- Of the events between samples only the Executor's may reach the active bank, by RESET DEVICE (R65, R184). -/
theorem betweenAct_standing {b : Between} (hb : b ≠ .executorTakes) (s : State) : Standing s (betweenAct b s) := by
  refine Standing.trans ?_ (settle_standing _)
  cases b with
  | executorTakes => exact absurd rfl hb
  | tripNFall => exact tripLineFall_standing s
  | tripNRise => exact .of_tables rfl rfl
  | bankCopyComplete => exact completeCopy_standing s
  | transmitEndU => exact transmitEnd_standing .u s
  | transmitEndD down => exact transmitEndD_standing down s
  | portDLine line => exact takeLineD_standing line s
  | portDSignalLoss => exact portDDownOp_standing s
  | portULine line => exact takeBeside_standing line s

/-! #### The node address (R169) -/

theorem executorTakes_nodeAddr (s : State) : (executorTakes s).nodeAddr = s.nodeAddr := by
  unfold executorTakes
  split
  · rfl
  · refine takeHead_keeps (P := fun t => t.nodeAddr = s.nodeAddr) (fun h hs => h.address.trans hs) _ (fun args u hu => ?_) rfl
    cases hcat : catalogue _ with
    | none => exact hu
    | some run => exact (command_nodeAddr (catalogue_mem hcat) args u).trans hu

theorem betweenAct_nodeAddr (b : Between) (s : State) : (betweenAct b s).nodeAddr = s.nodeAddr := by
  by_cases hb : b = .executorTakes
  · subst hb; exact (settle_nodeAddr _).trans (executorTakes_nodeAddr s)
  · exact (betweenAct_standing hb s).address

theorem takeFromU_nodeAddr (line : List Pattern) (between : List (List Between)) (s : State) :
    (takeFrom .u line between s).nodeAddr = s.nodeAddr := by
  have stands {a : BitVec 6} {u v : State} (h : Standing u v) (hu : u.nodeAddr = a) : v.nodeAddr = a := h.address.trans hu
  refine takeLineU_keeps (P := fun t => t.nodeAddr = s.nodeAddr) stands (fun e u hu => ?_) _ rfl
  refine lineEventU_keeps (P := fun t => t.nodeAddr = s.nodeAddr) stands (fun g hu => ?_) e hu
  exact takeSegment_keeps (P := fun t => t.nodeAddr = s.nodeAddr) stands (fun _ _ b _ v hv => (betweenAct_nodeAddr b v).trans hv)
    ((arrive_nodeAddr ..).trans hu)

/-! #### Port U's line without a frame, and the rows that are no command -/

theorem takeFromU_standing {line : List Pattern} {s : State}
    (noFrame : ∀ r f ending rest, s.rxU.run s.upU (line.map symbolOf) ≠ (r, some (.frame f ending, rest)))
    (between : List (List Between)) : Standing s (takeFrom .u line between s) := by
  rw [takeFrom, takeLine_eq]
  have received := setRx_standing s .u (s.rxU.run s.upU (line.map symbolOf)).1
  split
  · exact received
  · rename_i e he
    refine received.trans ?_
    obtain ⟨e, rest⟩ := e
    cases e with
    | comesUp => exact portUpOp_standing .u _
    | goesDown => exact portUDownOp_standing _
    | frame f ending => exact (noFrame _ f ending rest (Prod.ext rfl he)).elim
    | overlong => exact countFormatError_standing .u _

/-- What a row that is no command and no power-on reset comes to: all stands, or port U takes the row's patterns, its receiver as it
was. -/
theorem exec_event {i : Instr} (hi : i ∉ commandRows) (hp : ∀ straps level, i ≠ .powerOnReset straps level) (s : State) :
    ∃ u, exec i s = act u ∧
      (Standing s u ∨
        ∃ between v, Standing s v ∧ v.rxU = s.rxU ∧ v.upU = s.upU ∧ u = takeFrom .u (takenU i) between v) := by
  have taken (line : List Pattern) (between : List (List Between)) (hl : takenU i = line) :
      ∃ b v, Standing s v ∧ v.rxU = s.rxU ∧ v.upU = s.upU ∧ takeFrom .u line between s = takeFrom .u (takenU i) b v :=
    ⟨between, s, .refl s, rfl, rfl, by rw [hl]⟩
  cases i
  case powerOnReset straps level => exact absurd rfl (hp straps level)
  case frameReceived p line last between =>
    cases p
    · exact ⟨_, rfl, .inr (taken _ between rfl)⟩
    · exact ⟨_, rfl, .inl (takeLineD_standing _ s)⟩
  case cycleTimerExpiry => exact ⟨_, rfl, .inl (timerExpiry_standing s)⟩
  case bankCopyComplete => exact ⟨_, rfl, .inl (completeCopy_standing s)⟩
  case tripNFall => exact ⟨_, rfl, .inl (tripLineFall_standing s)⟩
  case tripNRise => exact ⟨_, rfl, .inl (.of_tables rfl rfl)⟩
  case portUp p line =>
    cases p
    · exact ⟨_, rfl, .inr (taken line [] rfl)⟩
    · exact ⟨_, rfl, .inl (takeLineD_standing line s)⟩
  case portDDown cause => exact ⟨_, rfl, .inl (causeD_standing cause s)⟩
  case portUDown cause =>
    cases cause with
    | lossOfSignal => exact ⟨_, rfl, .inl (portUDownOp_standing s)⟩
    | violations line => exact ⟨_, rfl, .inr (taken line [] rfl)⟩
  case frameTransmitEnd e =>
    obtain ⟨port, down⟩ := e
    have ended := transmitEnd_standing .u s
    cases port
    · cases down with
      | none => exact ⟨_, rfl, .inl ended⟩
      | some cause =>
        cases cause with
        | lossOfSignal => exact ⟨_, rfl, .inl (ended.trans (portUDownOp_standing _))⟩
        | violations line => exact ⟨_, rfl, .inr ⟨[], _, ended, rfl, rfl, rfl⟩⟩
    · exact ⟨_, rfl, .inl (transmitEndD_standing down s)⟩
  case frameOverlong e =>
    obtain ⟨port, line⟩ := e
    cases port
    · exact ⟨_, rfl, .inr (taken line [] rfl)⟩
    · exact ⟨_, rfl, .inl (takeLineD_standing line s)⟩
  all_goals exact absurd (by decide) hi

theorem exec_nodeAddr {i : Instr} (hp : ∀ straps level, i ≠ .powerOnReset straps level) {s t : State}
    (h : exec i s = .next t) : t.nodeAddr = s.nodeAddr := by
  by_cases hi : i ∈ commandRows
  · obtain ⟨is, run, row, change⟩ := commandRows_change hi
    rw [row] at h
    cases h
    refine (settle_nodeAddr _).trans ?_
    refine takeHead_keeps (P := fun t => t.nodeAddr = s.nodeAddr) (fun h hs => h.address.trans hs) is (fun args u hu => ?_) rfl
    rcases change args u with change | ⟨-, reset⟩
    · exact change.address.trans hu
    · rw [reset]; exact hu
  · obtain ⟨u, row, stands | ⟨between, v, stands, -, -, rfl⟩⟩ := exec_event hi hp s
    · rw [row] at h
      cases h
      exact (settle_nodeAddr u).trans stands.address
    · rw [row] at h
      cases h
      exact (settle_nodeAddr _).trans ((takeFromU_nodeAddr ..).trans stands.address)

/-- No row but POWER_ON_RESET and RESET DEVICE reaches the active bank where port U receives no frame (R3, R4, R184). -/
theorem exec_standing {i : Instr} (hp : ∀ straps level, i ≠ .powerOnReset straps level) (hd : i ≠ .resetDevice) {s t : State}
    (noFrame : ∀ r f ending rest, s.rxU.run s.upU ((takenU i).map symbolOf) ≠ (r, some (.frame f ending, rest)))
    (h : exec i s = .next t) : Standing s t := by
  by_cases hi : i ∈ commandRows
  · obtain ⟨is, run, row, change⟩ := commandRows_change hi
    rw [row] at h
    cases h
    refine Standing.trans ?_ (settle_standing _)
    refine takeHead_keeps (P := Standing s) (fun h hs => hs.trans h) is (fun args u hu => ?_) (.refl s)
    rcases change args u with change | ⟨reset, -⟩
    · exact hu.trans change.standing
    · exact absurd reset hd
  · obtain ⟨u, row, stands | ⟨between, v, stands, rx, up, rfl⟩⟩ := exec_event hi hp s
    · rw [row] at h
      cases h
      exact stands.trans (settle_standing u)
    · rw [row] at h
      cases h
      rw [← rx, ← up] at noFrame
      exact (stands.trans (takeFromU_standing noFrame between)).trans (settle_standing _)

/-- A SEG that opens no cycle leaves the active bank, where the Executor takes no command between its samples (R135, R137). -/
theorem takeSegment_standing {g : Segment} {between : List (List Between)} {s : State} (hg : ¬ OpensCycle s g.cycle g.index)
    (hb : ∀ l ∈ between, Between.executorTakes ∉ l) : Standing s (takeSegment between g s) :=
  takeSegment_keeps (P := Standing s) (fun h hs => hs.trans h)
    (fun l hl _ hm u hu => hu.trans (betweenAct_standing (fun h => hb l hl (h ▸ hm)) u))
    (.of_tables (arrive_nodeAddr ..) (arrive_tables (s := enterSegment g s) hg))

/-- Settles O6: by the row where port U receives no frame, and by the SEG's arrival where it does. -/
theorem addressAndActiveBankChangeOnlyWhereSaid : Obligations.AddressAndActiveBankChangeOnlyWhereSaid := by
  unfold Obligations.AddressAndActiveBankChangeOnlyWhereSaid
  intro i s t hp h
  refine ⟨exec_nodeAddr hp h, fun hd noFrame => ?_, fun line last between f ending r hi delivers hb hopen => ?_⟩
  · obtain ⟨-, letter, bank, mode⟩ := exec_standing hp hd noFrame h
    exact ⟨letter, bank, mode⟩
  · subst hi
    rw [delivers.frameReceivedU] at h
    cases h
    have kept : Standing s { s with rxU := r } := .of_tables rfl rfl
    have received : Standing s (receiveU (takeSegment between) f ending { s with rxU := r }) :=
      receiveU_keeps (fun h hs => hs.trans h) (fun p good => kept.trans (takeSegment_standing (hopen p good) hb)) kept
    obtain ⟨-, letter, bank, mode⟩ := received.trans (settle_standing _)
    exact ⟨letter, bank, mode⟩

end Sys2Proof.Machine
end
